-- ==== Sys2Proof/Word.lean ====
section
/-! DEFINITION. Words, bytes and the modular comparison of times (file 00, Conventions). -/

namespace Sys2Proof

/-- One byte of the exchange memory or of a bus. -/
abbrev Byte := BitVec 8

/-- A 16-bit field or counter. -/
abbrev Half := BitVec 16

/-- A 32-bit word of the exchange memory or a register. -/
abbrev Word := BitVec 32

/-- A value of the time count, in microseconds modulo 2^32 (R46). -/
abbrev Time := BitVec 32

/-- The four bytes of a little-endian word, lowest offset first (file 00, Numbers). -/
def Word.ofBytes (b0 b1 b2 b3 : Byte) : Word := b3 ++ b2 ++ b1 ++ b0

/-- The byte of a word at offset `i` within it. -/
def Word.byte (w : Word) (i : Nat) : Byte := w.extractLsb' (8 * i) 8

/-- A word made of its low and its high half. -/
def Word.ofHalves (lo hi : Half) : Word := hi ++ lo

/-- The low half of a word. -/
def Word.low (w : Word) : Half := w.extractLsb' 0 16

/-- `a` is at or after `b`: (a - b) mod 2^32 is less than 2^31 (file 00, Modular time comparison). -/
def Time.atOrAfter (a b : Time) : Bool := decide ((a - b).toNat < 2 ^ 31)

/-- The microseconds from `b` to `a`, modulo 2^32. -/
def Time.since (a b : Time) : Nat := (a - b).toNat

/-- A 16-bit counter that saturates at 65535 (file 00, Counters). -/
def Half.saturatingAdd (h : Half) (n : Nat) : Half :=
  if h.toNat + n ≥ 65535 then 65535#16 else h + BitVec.ofNat 16 n

end Sys2Proof
end

