-- ==== Sys2Proof/Config.lean ====
section
/-! DEFINITION. The fixed figures of the part (file 00, Table I-3), and the values its manual leaves open: constants
without a body, of which nothing can be proved but what holds of every value. -/

namespace Sys2Proof.Config

/-- Cards of the card table (R1). -/
abbrev cards : Nat := 96

/-- Card contexts of the Schedule Unit (R48). -/
abbrev contexts : Nat := 32

/-- Entries of the device table (R70). -/
abbrev devices : Nat := 64

/-- Entries the substitution map holds (R83). -/
abbrev substEntries : Nat := 8

/-- Requests the fault request queue holds (R140). -/
abbrev queueEntries : Nat := 16

/-- The debt at which a further overtake fails the card (R56). -/
abbrev debtLimit : Nat := 6

/-- The yield at which an instance fails (R60). -/
abbrev yieldLimit : Nat := 16

/-- The plausible edges after which the reference has returned (R176). -/
abbrev qualifyEdges : Nat := 256

/-- The layout code the posting header must hold (R171). -/
abbrev layoutCode : Word := 0x00000416#32

/-- The ID register: part code 0x0416, revision 0x02 (R163). -/
abbrev idWord : Word := 0x00020416#32

/-- A bound on the events of one card that one step takes.  Each due arrival taken moves the next one on by a period of at
least 50 us, and the pass ends when none lies at or before the count, so fewer than 2^31 are ever taken (log 20). -/
abbrev passBound : Nat := 4294967296

/-- FREE VALUE (log 21): whether attach had already cleared the word with index `w` of the exchange memory when a RESET
abandoned the clearing (R172: "Words already cleared stay cleared"); the first argument counts the free values used. -/
opaque clearedBefore : Nat → Nat → Bool

/-- FREE VALUE (log 21): whether attach had already zeroed the word of the dropped-write mirror when a dropped write was
taken during the clearing (R158). -/
opaque mirrorZeroedBefore : Nat → Bool

/-- OPEN CONSTANT (log 15): whether an address byte that was cut short counts as the last address byte sent (R91, R105). -/
opaque cutAddressByteCounts : Bool

/-- OPEN CONSTANT (log 16): the leg index, 0 to 3, a record carries for an error in phase TURN after leg `l` (R105, Table 8-1). -/
opaque turnLegIndex : Nat → Fin 4

/-- OPEN CONSTANT (log 16): the byte index, 0 to 44, a record carries for an error in phase TURN after leg `l` (R105, Table 8-1). -/
opaque turnByteIndex : Nat → Fin 45

/-- OPEN CONSTANT (log 16): the leg index, 0 to 3, a record carries for an error in phase STOP, given the last leg carried out and, where
the stop follows a refused or wrong byte, that byte's index (R105, Table 8-1). -/
opaque stopLegIndex : Nat → Option Nat → Fin 4

/-- OPEN CONSTANT (log 16): the byte index, 0 to 44, a record carries for an error in phase STOP (R105, Table 8-1). -/
opaque stopByteIndex : Nat → Option Nat → Fin 45

/-- OPEN CONSTANT (log 16): the byte index, an address byte's, a record carries for an error in the repeated start between the write form
and the read form of a 10-bit address (R91, R105). -/
opaque readdressByteIndex : Fin 3

/-- OPEN CONSTANT (log 43): what the part does to data out in phase SELECT where no bit is presented, in modes 1 and 3: none, it releases the
line; some level, it drives the line there (R113, Tables 6-1 and 6-2). -/
opaque unpresentedDataOut : Option Bool

end Sys2Proof.Config
end

