-- ==== Sys2Proof/Syntax.lean ====
section
/-! DEFINITION. The commands of the block: one constructor for each row of spec/opcode_table.json, with what the sender
brings: operands of a host write, what is seen on a bus or a pin at the event. -/

namespace Sys2Proof

/-- A card index, 0 to 95 (R1). -/
abbrev CardIx := Fin Config.cards

/-- A device index, 0 to 63 (R70). -/
abbrev DevIx := Fin Config.devices

/-- A bus port, 0 to 3: 0 and 1 two-wire, 2 and 3 four-wire. -/
abbrev PortIx := Fin 4

/-- A two-wire port: 0 is port 0 and 1 is port 1. -/
abbrev TwoIx := Fin 2

/-- A four-wire port: 0 is port 2 and 1 is port 3. -/
abbrev FourIx := Fin 2

/-- A point of a two-wire attempt, as R105 counts it: the phase, the leg, and in phases ADDRESS and DATA the byte; the check
byte of a leg has the index equal to the leg's length. -/
inductive BusPos
  /-- Phase START. -/
  | start
  /-- Phase ADDRESS, within the eight bits of address byte `i` of leg `leg`. -/
  | address (leg i : Nat)
  /-- Phase ADDRESS, in the ninth bit after address byte `i` of leg `leg` (R91). -/
  | addressAck (leg i : Nat)
  /-- Phase ADDRESS, in the repeated start before the third address byte of leg `leg` (R91). -/
  | readdress (leg : Nat)
  /-- Phase DATA, within the eight bits of byte `i` of leg `leg`. -/
  | data (leg i : Nat)
  /-- Phase DATA, in the ninth bit after byte `i` of leg `leg` (R92, R93). -/
  | dataAck (leg i : Nat)
  /-- Phase TURN, the repeated start after leg `leg`. -/
  | turn (leg : Nat)
  /-- Phase STOP, the closing stop after the last leg. -/
  | stop
  /-- Phase STOP, in the stop after address byte `i` of leg `leg` was refused (R97). -/
  | stopAfterAddress (leg i : Nat)
  /-- Phase STOP, in the stop after byte `i` of leg `leg` was refused, or was a wrong check byte (R97, R98). -/
  | stopAfterData (leg i : Nat)
  deriving DecidableEq, Repr

/-- An interval that a port measures on its bus clocks (R177): the time count at which it began, which says which interval it is, and how
long it has lasted by that measure, in ns (log 12). -/
structure Measure where
  since : Time
  ns : Nat
  deriving DecidableEq, Repr

/-- A port, with an interval that it has measured. -/
structure Elapsed (Ix : Type) where
  port : Ix
  interval : Measure
  deriving DecidableEq, Repr

/-- A four-wire port, with the intervals that its select waits for (R112, R113): since the last select deassertion, and that for which the
clock has stood at its idle level since the choice. -/
structure SelectDue where
  port : FourIx
  deselected : Measure
  idle : Measure
  deriving DecidableEq, Repr

/-- Why a recovery fails (R103). -/
inductive StuckBy
  /-- Step 1: the clock has not risen since the recovery began. -/
  | firstWait (low : Measure)
  /-- Step 3: the clock, released in the pulse after `pulses` whole ones, has not risen since. -/
  | pulseWait (pulses : Nat) (low : Measure)
  /-- Step 3: the data line is still low after the ninth pulse. -/
  | dataLow
  deriving DecidableEq, Repr

/-- Where an assertion of SENSE finds the attempt of an ACTIVE four-wire port (R119, R123). -/
inductive SensePos
  /-- Phase SELECT, or no attempt on the port. -/
  | select
  /-- Phase DATA, within byte `i` of leg `leg`. -/
  | data (leg i : Nat)
  /-- After the last bit of the last leg has been sampled: the attempt has reached DONE. -/
  | afterLastBit
  deriving DecidableEq, Repr

/-- The commands.  The docstring of each names its row of spec/opcode_table.json and its rule. -/
inductive Instr
  /-- POWER_ON_RESET (R170). -/
  | powerOnReset
  /-- POWER_ON_CLEAR_END (R162). -/
  | powerOnClearEnd
  /-- TIME_COUNT_TICK (R46). -/
  | timeCountTick
  /-- HOST_WRITE (R157): a host write of the word at byte offset `offset` with four byte enables. -/
  | hostWrite (offset : Nat) (value : Word) (enables : BitVec 4)
  /-- RUN (R167). -/
  | run
  /-- ATTACH_CLEARING_END (R172): `data0High`, `data1High` are the data line levels the line checks of ports 0 and 1 read. -/
  | attachClearingEnd (data0High data1High : Bool)
  /-- STOP (R168). -/
  | stop
  /-- RESET (R169). -/
  | reset
  /-- NUDGE (R23). -/
  | nudge
  /-- CAUSE_WRITE (R151). -/
  | causeWrite (value : Word) (enables : BitVec 4)
  /-- ENABLE_WRITE (R152). -/
  | enableWrite (value : Word) (enables : BitVec 4)
  /-- REGISTER_WRITE_IGNORED (R163). -/
  | registerWriteIgnored (offset : Nat) (value : Word) (enables : BitVec 4)
  /-- SWEEP_TIMER_EXPIRY (R22). -/
  | sweepTimerExpiry
  /-- VISIT (R28): the visit to the card at the sweep position; `dataHigh` is the level a line check of a PORT_CLEAR for a
  two-wire port would read on the data line (R107). -/
  | visit (dataHigh : Bool)
  /-- DUE_ARRIVAL (R52). -/
  | dueArrival (card : CardIx)
  /-- WINDOW_EXPIRY (R54). -/
  | windowExpiry (card : CardIx)
  /-- GAP_EXPIRY (R61). -/
  | gapExpiry (card : CardIx)
  /-- ARBITER_CHOICE (R59). -/
  | arbiterChoice (port : PortIx)
  /-- GUARD_EXPIRY (R82). -/
  | guardExpiry (dev : DevIx)
  /-- DRIVE_START_CONDITION (R90), with the interval since the last stop. -/
  | driveStartCondition (free : Elapsed TwoIx)
  /-- START_CONDITION (R88): a start condition the part did not drive. -/
  | startCondition (port : TwoIx)
  /-- STOP_CONDITION (R88): a stop condition the part did not drive. -/
  | stopCondition (port : TwoIx)
  /-- BUS_FREE_TIME (R88), with the interval for which both lines have been high since the measure last began. -/
  | busFreeTime (high : Elapsed TwoIx)
  /-- TWO_WIRE_DONE (R95): `data` are the data bytes received on the READ legs, in leg order. -/
  | twoWireDone (port : TwoIx) (data : List Byte)
  /-- ADDRESS_NACK (R97): address byte `i` of leg `leg` is refused; `rx` are the data bytes received before. -/
  | addressNack (port : TwoIx) (leg i : Nat) (rx : List Byte) (levels : BitVec 2)
  /-- DATA_NACK (R97): data byte `i` of WRITE leg `leg` is refused. -/
  | dataNack (port : TwoIx) (leg i : Nat) (rx : List Byte) (levels : BitVec 2)
  /-- CHECK_MISMATCH (R98): the check byte of leg `leg` is refused (WRITE leg, `got` is none) or wrong (READ leg, `got` is the
  byte received). -/
  | checkMismatch (port : TwoIx) (leg : Nat) (rx : List Byte) (got : Option Byte) (levels : BitVec 2)
  /-- ARB_LOST (R99). -/
  | arbLost (port : TwoIx) (pos : BusPos) (rx : List Byte) (levels : BitVec 2)
  /-- BUS_ERROR (R101): a misplaced stop (`isStop`) or start condition.  In the ninth bit of a received byte, or in the stop after a
  wrong check byte, `rx` holds that byte too, as its last. -/
  | busError (port : TwoIx) (pos : BusPos) (rx : List Byte) (isStop : Bool)
  /-- STRETCH_TIMEOUT (R102): the clock, released when `low` began, is still low; `dataHigh` is the data line level; `rx` is as in
  BUS_ERROR. -/
  | stretchTimeout (port : TwoIx) (pos : BusPos) (rx : List Byte) (low : Measure) (dataHigh : Bool)
  /-- RECOVERY_DONE (R103): the data line reads high after `pulses` clock pulses. -/
  | recoveryDone (port : TwoIx) (pulses : Nat)
  /-- PORT_STUCK (R103): the clock does not rise within the hold limit, or the data line is still low after the ninth pulse;
  `dataHigh` is the data line level then. -/
  | portStuck (port : TwoIx) (reason : StuckBy) (dataHigh : Bool)
  /-- HOLD_TIMER_EXPIRY (R106). -/
  | holdTimerExpiry (port : TwoIx) (levels : BitVec 2)
  /-- SELECT_ASSERT (R113). -/
  | selectAssert (due : SelectDue)
  /-- SELECT_LEAD_END (R113), with the interval since the select's assertion. -/
  | selectLeadEnd (lead : Elapsed FourIx)
  /-- FOUR_WIRE_DONE (R117). -/
  | fourWireDone (port : FourIx) (data : List Byte)
  /-- FOUR_WIRE_CHECK_MISMATCH (R116): READ leg `leg` returned the wrong check byte `got`; `levels` are clock, data out, data
  in. -/
  | fourWireCheckMismatch (port : FourIx) (leg : Nat) (rx : List Byte) (got : Byte) (levels : BitVec 3)
  /-- SENSE_ASSERTION (R118): `rx` are the data bytes received before, all of them after the last bit. -/
  | senseAssertion (port : FourIx) (pos : SensePos) (rx : List Byte) (levels : BitVec 3)
  /-- SENSE_DEASSERTION (R118). -/
  | senseDeassertion (port : FourIx)
  /-- SENSE_HOLD_EXPIRY (R121). -/
  | senseHoldExpiry (port : FourIx) (levels : BitVec 3)
  /-- APPEND (R145). -/
  | append
  /-- HOLDOFF_EXPIRY (R154). -/
  | holdoffExpiry
  /-- REF_LOST (R175): a gap of 2 us on the fallback oscillator since the last rising edge. -/
  | refLost
  /-- REF_BACK (R176). -/
  | refBack
  /-- RESET_N_RELEASE (R170). -/
  | resetNRelease
  /-- REFERENCE_EDGE (R176): `spacing` is the interval in ns since the edge before it, measured on the fallback oscillator;
  none when there was no edge before it. -/
  | referenceEdge (spacing : Option Nat)
  /-- REFERENCE_GAP (R176): the same gap while the source is FALLBACK. -/
  | referenceGap
  /-- BUS_LINE_FALL (R88). -/
  | busLineFall (port : TwoIx)
  deriving DecidableEq, Repr

end Sys2Proof
end

