-- ==== Sys2Proof/WellFormed.lean ====
section
/-! DEFINITION. Which commands are commands of the part: the offsets of accesses, and the bounds of what an event can bring. -/

namespace Sys2Proof

/-- Offsets of the register window (Table 10-2). -/
abbrev Reg.id : Nat := 0x8000
abbrev Reg.control : Nat := 0x8004
abbrev Reg.state : Nat := 0x8008
abbrev Reg.nudge : Nat := 0x800C
abbrev Reg.cause : Nat := 0x8010
abbrev Reg.enable : Nat := 0x8014
abbrev Reg.time : Nat := 0x8018
/-- The first offset above the registers (R163). -/
abbrev Reg.above : Nat := 0x801C

/-- An access presents the offset of a word, a multiple of 4 (R157), of the 32 KiB memory. -/
def memoryOffset (offset : Nat) : Bool := offset % 4 == 0 && decide (offset < 0x8000)

/-- The command byte of a CONTROL write: a byte without its enable reads 0 (R164). -/
def controlByte (value : Word) (enables : BitVec 4) : Byte := if enables.getLsbD 0 then value.byte 0 else 0#8

/-- The value names none of RUN, STOP and RESET (R164, Table 12-15). -/
def namesNoCommand (value : Word) (enables : BitVec 4) : Bool :=
  let b := controlByte value enables
  b != 1#8 && b != 2#8 && b != 3#8

/-- A register write that is ignored: to ID, STATE, TIME or above the registers (R163), to CONTROL naming no command (R164),
or to any register with no byte enable set (R157). -/
def ignoredWrite (offset : Nat) (value : Word) (enables : BitVec 4) : Bool :=
  offset % 4 == 0 && decide (Reg.id ≤ offset) &&
    (offset == Reg.id || offset == Reg.state || offset == Reg.time || decide (Reg.above ≤ offset)
      || (offset == Reg.control && namesNoCommand value enables) || enables == 0#4)

/-- A position's leg is one of four and its byte index at most 44 (R143). -/
def BusPos.bounded : BusPos → Bool
  | .start => true
  | .address leg i | .addressAck leg i | .stopAfterAddress leg i => decide (leg < 4) && decide (i < 3)
  | .data leg i | .dataAck leg i | .stopAfterData leg i => decide (leg < 4) && decide (i ≤ 44)
  | .turn leg | .readdress leg => decide (leg < 4)
  | .stop => true

/-- The same for an assertion of SENSE. -/
def SensePos.bounded : SensePos → Bool
  | .select => true
  | .data leg i => decide (leg < 4) && decide (i ≤ 44)
  | .afterLastBit => true

/-- At most 18 bytes are read in an attempt (R10). -/
def readBounded (rx : List Byte) : Bool := decide (rx.length ≤ 18)

/-- With the check byte of a READ leg, at most 19 (R93). -/
def crossedBounded (rx : List Byte) : Bool := decide (rx.length ≤ 19)

/-- A pulse that fails is one of nine, and a data line still low after the ninth pulse is low (R103). -/
def StuckBy.shows (reason : StuckBy) (dataHigh : Bool) : Bool :=
  match reason with
  | .firstWait _ => true
  | .pulseWait pulses _ => decide (pulses < 9)
  | .dataLow => !dataHigh

/-- A command is well-formed. -/
def Instr.wellFormed : Instr → Bool
  | .hostWrite offset _ _ => memoryOffset offset
  | .registerWriteIgnored offset value enables => ignoredWrite offset value enables
  | .twoWireDone _ data => readBounded data
  | .addressNack _ leg i rx _ => (BusPos.address leg i).bounded && readBounded rx
  | .dataNack _ leg i rx _ => (BusPos.data leg i).bounded && readBounded rx
  | .checkMismatch _ leg rx _ _ => decide (leg < 4) && readBounded rx
  | .arbLost _ pos rx _ => pos.bounded && readBounded rx
  | .busError _ pos rx _ => pos.bounded && crossedBounded rx
  | .stretchTimeout _ pos rx _ _ => pos.bounded && crossedBounded rx
  | .recoveryDone _ pulses => decide (pulses ≤ 9)
  | .portStuck _ reason dataHigh => reason.shows dataHigh
  | .fourWireDone _ data => readBounded data
  | .fourWireCheckMismatch _ leg rx _ _ => decide (leg < 4) && readBounded rx
  | .senseAssertion _ pos rx _ => pos.bounded && readBounded rx
  | .powerOnReset | .powerOnClearEnd | .timeCountTick | .run | .attachClearingEnd _ _ | .stop | .reset | .nudge
  | .causeWrite _ _ | .enableWrite _ _ | .sweepTimerExpiry | .visit _ | .dueArrival _ | .windowExpiry _ | .gapExpiry _
  | .arbiterChoice _ | .guardExpiry _ | .driveStartCondition _ | .startCondition _ | .stopCondition _ | .busFreeTime _
  | .holdTimerExpiry _ _ | .selectAssert _ | .selectLeadEnd _ | .senseDeassertion _ | .senseHoldExpiry _ _ | .append
  | .holdoffExpiry | .refLost | .refBack | .resetNRelease | .referenceEdge _ | .referenceGap | .busLineFall _ => true

end Sys2Proof
end

