-- ==== Sys2Proof/Decode.lean ====
section
/-! DEFINITION. spec/opcode_table.json gives no row any bits, so no word spells a command; beside that, which command a
host's write of one word at the Host Access Port is (R157, R163 to R165). -/

namespace Sys2Proof

/-- The command a word spells by the table's bits: the table gives bits to no row. -/
def decodeTableWord (_nbits _w : Nat) : Option Instr := none

/-- The command that a host write of one word is.  None for an offset that is no multiple of 4, which no access presents
(R157). -/
def commandOfHostWrite (offset : Nat) (value : Word) (enables : BitVec 4) : Option Instr :=
  if offset % 4 ≠ 0 then none
  else if offset < 0x8000 then some (.hostWrite offset value enables)
  else if enables = 0#4 then some (.registerWriteIgnored offset value enables)
  else if offset = Reg.control then
    let b := controlByte value enables
    if b = 1#8 then some .run
    else if b = 2#8 then some .stop
    else if b = 3#8 then some .reset
    else some (.registerWriteIgnored offset value enables)
  else if offset = Reg.nudge then some .nudge
  else if offset = Reg.cause then some (.causeWrite value enables)
  else if offset = Reg.enable then some (.enableWrite value enables)
  else some (.registerWriteIgnored offset value enables)

end Sys2Proof
end

