-- ==== Sys2Proof/Machine/Crc.lean ====
section
/-! DEFINITION. The two check computations: the card's CRC-16 (R14) and the legs' CRC-8 (R94). -/

namespace Sys2Proof.Machine

/-- `f n`. The match has no meaning of its own: it makes the kernel compute `n` to a numeral before it goes on with `f`, so that a
long fold does not pile up unevaluated steps (`evalThen_eq` in Laws/Crc.lean). -/
def evalThen {α : Type} (n : Nat) (f : Nat → α) : α :=
  match n with
  | 0 => f 0
  | m + 1 => f (m + 1)

/-- The register `r` after the bytes, `step` taking one byte at a time. -/
def crcFold {w : Nat} (step : BitVec w → Byte → BitVec w) : BitVec w → List Byte → BitVec w
  | r, [] => r
  | r, b :: rest => evalThen (step r b).toNat fun n => crcFold step (BitVec.ofNat w n) rest

/-- One bit of the CRC-16 with polynomial 0x1021 (R14). -/
def crc16Bit (r : Half) : Half := if r.getLsbD 15 then (r <<< 1) ^^^ 0x1021#16 else r <<< 1

/-- One byte of the CRC-16, most significant bit first. -/
def crc16Byte (r : Half) (b : Byte) : Half :=
  let r0 := r ^^^ (b ++ 0#8 : BitVec 16)
  crc16Bit (crc16Bit (crc16Bit (crc16Bit (crc16Bit (crc16Bit (crc16Bit (crc16Bit r0)))))))

/-- The CRC-16 of a card's bytes, from 0xFFFF, not inverted (R14). -/
def crc16 (bytes : List Byte) : Half := crcFold crc16Byte 0xFFFF#16 bytes

/-- One bit of the CRC-8 with polynomial 0x07 (R94). -/
def crc8Bit (r : Byte) : Byte := if r.getLsbD 7 then (r <<< 1) ^^^ 0x07#8 else r <<< 1

/-- One byte of the CRC-8, most significant bit first. -/
def crc8Byte (r b : Byte) : Byte :=
  crc8Bit (crc8Bit (crc8Bit (crc8Bit (crc8Bit (crc8Bit (crc8Bit (crc8Bit (r ^^^ b))))))))

/-- The check byte of a leg's data bytes, from 0x00, not inverted (R94). -/
def crc8 (bytes : List Byte) : Byte := crcFold crc8Byte 0x00#8 bytes

end Sys2Proof.Machine
end

