-- ==== Sys2Proof/Machine/State.lean ====
section
/-! DEFINITION. The state of the part, as plain data: every register, counter, timer, queue, latch and port the spec names,
the exchange memory, and the queue of waiting commands; and the machine right after reset. -/

namespace Sys2Proof.Machine

/-- The exchange memory: cells in rising order of address, none of them zero; an unlisted address reads 0, as the power-on
clear leaves it (R162). -/
abbrev Memory := List Host.Cell

/-! ### Run Control and the Time Base -/

/-- Run states (Table 11-1). -/
inductive RunState
  | halted | attaching | running | quiescing | stopped | faulted
  deriving DecidableEq, Repr

/-- The source that drives the time count (R175). -/
inductive TimeSource
  | reference | fallback
  deriving DecidableEq, Repr

/-- The step an attach has reached (R172): the clearing, or the line checks after it. -/
inductive AttachStep
  | clearing | lineCheck
  deriving DecidableEq, Repr

/-- The Time Base and reference supervision (R46, R175, R176). -/
structure TimeBase where
  /-- The time count (R46). -/
  count : Time
  /-- The time source; FALLBACK is also the FALLBACK indication of STATE (R175). -/
  source : TimeSource
  /-- The qualification run count, 0 to 256 (R175). -/
  runCount : Nat
  /-- The edge monitor's gap measure in ns of the fallback oscillator, as it last stood: 0 at an edge, 2000 once it has
  found a gap (R175, R176; log 23). -/
  edgeGap : Nat
  /-- A microsecond boundary has come since the run count reached 256 (R176; log 23). -/
  boundary : Bool
  deriving DecidableEq, Repr

/-- Run Control (R166 to R174). -/
structure RunControl where
  /-- The run state (R166). -/
  state : RunState
  /-- The STOP-held flag (R168). -/
  stopHeld : Bool
  /-- The step of an attach in progress (R172). -/
  attach : Option AttachStep
  /-- The time count when STOPPED was last entered (R68). -/
  stoppedAt : Time
  deriving DecidableEq, Repr

/-- The users of the Exchange Arbiter (R159, R160). -/
inductive ArbiterUser
  | host | droppedMirror | resultUnit | faultLogUnit
  | portEngine (p : PortIx)
  | deviceStatusUnit | intakeUnit
  deriving DecidableEq, Repr

/-- The Exchange Arbiter's accesses (R159).  Steps are whole, so none is left between two steps (log 3). -/
structure Arbiter where
  /-- The user whose word access is in progress. -/
  serving : Option ArbiterUser
  /-- The users that wait, each with one word access, in the order of their arrival. -/
  waiting : List ArbiterUser
  deriving DecidableEq, Repr

/-- The Host Access Port and the dropped-write counter (R157, R158, R162). -/
structure HostPort where
  /-- RESET_N is asserted (R170). -/
  resetAsserted : Bool
  /-- The power-on clear is in progress (R162). -/
  clearing : Bool
  /-- Host accesses held on the bus while the port is not ready, in the order presented (R162). -/
  held : List Instr
  /-- The dropped-write counter (R158). -/
  dropped : Half
  /-- The attach in progress has zeroed the word of the dropped-write mirror (R158, R172; log 21). -/
  mirrorZeroed : Bool
  deriving DecidableEq, Repr

/-! ### Reports -/

/-- Result codes (Table 12-11). -/
inductive ResultCode
  | none | ok | okWithGaps | nothingToDo | late | noAck | dataRefused | yieldLimit | checkFailed | busFault | deviceFenced
  | portFenced | deviceInvalid | debtLimit | takenInvalid | substFull | withdrawnByOrder | rejectCheck | rejectKind
  | rejectDevice | rejectLegs | rejectBank | rejectOverlap | rejectTiming
  deriving DecidableEq, Repr

/-- Progress states (Table 1-6). -/
inductive ProgressState
  | empty | waiting | accepted | active | ended | failed | withdrawn | rejected
  deriving DecidableEq, Repr

/-- Kinds of fault record (Table 12-14). -/
inductive FaultKind
  | addressNack | dataNack | arbLost | busError | stretchTimeout | checkMismatch | contention | recoveryDone | portStuck
  | busHeld | deviceFenced | substitutionMade | substFull | cardRejected | debtLimit | takenInvalid | refLost | refBack
  deriving DecidableEq, Repr

/-- Dispositions of an attempt error (Table 8-1). -/
inductive Disposition
  | none | retried | yielded | ending
  deriving DecidableEq, Repr

/-- Phases as a fault record gives them (Table 12-13). -/
inductive RecordPhase
  | none | start | address | data | turn | stop | select
  deriving DecidableEq, Repr

/-- A request for a fault record: every field but the sequence (R141, R143).  An absent field is none. -/
structure FaultRecord where
  time : Time
  kind : FaultKind
  disposition : Disposition
  result : ResultCode
  port : Option PortIx
  device : Option DevIx
  resolved : Option DevIx
  card : Option CardIx
  generation : Byte
  attempt : Nat
  phase : RecordPhase
  leg : Byte
  byteIndex : Byte
  lastAddress : Byte
  lastByte : Byte
  levels : Byte
  deriving DecidableEq, Repr

/-- The exchange memory with the units that report through it: the Result Unit's held done map, the Fault Log Unit and the
Attention Unit (R126, R140, R149). -/
structure Reports where
  /-- The exchange memory (R156). -/
  mem : Memory
  /-- The held copy of the done map (R126, R138). -/
  done : BitVec 96
  /-- The append count; its low half is the log made counter (R140). -/
  appendCount : Word
  /-- The log's lost count (R140). -/
  logLost : Half
  /-- The request queue, head first (R140). -/
  queue : List FaultRecord
  /-- The CAUSE latches, at their register positions (R149, Table 12-15). -/
  cause : Byte
  /-- The enable bits (R149). -/
  enable : Byte
  /-- The sample tally, 0 to 255 (R149). -/
  tally : Nat
  /-- The holdoff timer: stopped, or running with its expiry time (R149). -/
  holdoffTimer : Option Time
  deriving DecidableEq, Repr

/-! ### Intake -/

/-- Log levels (R142). -/
inductive LogLevel
  | quiet | full
  deriving DecidableEq, Repr

/-- The posting-header values in force (Table 2-1). -/
structure Header where
  /-- Sweep interval in us. -/
  interval : Nat
  /-- Holdoff in us. -/
  holdoff : Nat
  /-- Sample threshold. -/
  threshold : Nat
  /-- Log level. -/
  level : LogLevel
  /-- Bus hold limit in ms. -/
  holdLimit : Nat
  deriving DecidableEq, Repr

/-- The execution of a PORT_CLEAR card that waits for its port's recovery (R42, R45, R107). -/
structure PortClear where
  card : CardIx
  generation : Byte
  port : TwoIx
  deriving DecidableEq, Repr

/-- The Intake Unit (R21). -/
structure Intake where
  /-- The sweep timer: stopped, or running with its expiry time. -/
  timer : Option Time
  /-- The sweep-pending flag. -/
  pending : Bool
  /-- The sweep position: the card being visited, or none between sweeps. -/
  pos : Option CardIx
  /-- The posting-header values in force. -/
  header : Option Header
  /-- A control card's execution that has not ended (R42). -/
  control : Option PortClear
  deriving DecidableEq, Repr

/-! ### Devices -/

/-- Health of a device (R71). -/
inductive Health
  | healthy | suspect | fenced
  deriving DecidableEq, Repr

/-- The Device Status Unit's record of one device (R71). -/
structure DeviceRecord where
  health : Health
  /-- The fault count, 0 to 15. -/
  faults : Nat
  /-- The guard: clear, or active with its expiry time. -/
  guard : Option Time
  deriving DecidableEq, Repr

/-- The Device Status Unit (R71, R83). -/
structure DeviceUnit where
  recs : Vector DeviceRecord Config.devices
  /-- The substitution map: pairs of primary and standby, oldest first. -/
  subst : List (DevIx × DevIx)
  deriving DecidableEq, Repr

/-- A device table entry as read (Table 12-5): every field the whole of its bytes. -/
structure DeviceEntry where
  present : Bool
  tenBit : Bool
  check : Bool
  port : Nat
  /-- Two-wire address, or four-wire select. -/
  address : Nat
  /-- Two-wire speed code, or four-wire divider. -/
  speed : Nat
  mode : Nat
  fill : Byte
  retryLimit : Nat
  /-- In units of 10 us. -/
  retryGap : Nat
  threshold : Nat
  standby : Nat
  /-- Reply limit, or select lead, in us. -/
  reply : Nat
  /-- In units of 10 us. -/
  guardTime : Nat
  deriving DecidableEq, Repr

/-! ### Card contexts -/

/-- The transfer kinds (Table 1-2). -/
inductive TransferKind
  | once | every
  deriving DecidableEq, Repr

/-- Operations of a legal leg (R10). -/
inductive LegOp
  | write | read
  deriving DecidableEq, Repr

/-- A leg (R10). -/
structure Leg where
  op : LegOp
  length : Nat
  offset : Nat
  deriving DecidableEq, Repr

/-- The six card flags (Table 1-4), as in the request half (Table 3-1). -/
structure CardFlags where
  now : Bool
  catchUp : Bool
  keepNewest : Bool
  stopOnError : Bool
  setting : Bool
  notify : Bool
  deriving DecidableEq, Repr

/-- Phases of the current instance (Table 3-2); a WAITING one stands on the ready list of the port (R58; log 9). -/
inductive InstPhase
  | sleeping
  | waiting (port : PortIx)
  | running
  | retryWait
  deriving DecidableEq, Repr

/-- The pending end of a context (Table 3-1). -/
inductive PendingEnd
  | none | withdrawn | debtLimit
  deriving DecidableEq, Repr

/-- What is kept of the last attempt of the current instance (R61, R129). -/
structure LastAttempt where
  start : Time
  stop : Time
  device : DevIx
  substituted : Bool
  fallback : Bool
  deriving DecidableEq, Repr

/-- A held card context (Table 3-1), with the Result Unit's counters of the card (R126) and what its progress half shows. -/
structure Context where
  generation : Byte
  kind : TransferKind
  priority : Nat
  flags : CardFlags
  device : DevIx
  legs : List Leg
  inline : List Byte
  bankFirst : Nat
  bankCount : Nat
  base : Time
  period : Word
  count : Nat
  window : Nat
  /-- Current instance number. -/
  k : Word
  phase : InstPhase
  /-- Next arrival number. -/
  j : Word
  nextArrival : Time
  /-- The due arrival of the next instance (in SLEEPING: of the current one) is armed. -/
  armed : Bool
  started : Bool
  late : Bool
  catchUpRun : Bool
  /-- The instance has come from RETRY_WAIT and not been chosen since (R59). -/
  fromRetry : Bool
  retryTally : Nat
  yieldTally : Nat
  windowExpiry : Option Time
  gapExpiry : Option Time
  /-- The resolved device of the latest resolution (Table 3-1); before the first of a posting the card's own device, and before the first
  of a later instance that of the instance before it (log 40). -/
  resolved : DevIx
  /-- The substituted mark of the latest resolution (Table 3-1); clear before the first of an instance (log 40). -/
  substituted : Bool
  run : Word
  missed : Word
  failed : Word
  debt : Nat
  withdrawalPending : Bool
  pendingEnd : PendingEnd
  /-- The posting is ACTIVE, not ACCEPTED (R18). -/
  active : Bool
  made : Half
  lost : Half
  /-- The bank position (R126). -/
  position : Nat
  retriesTotal : Half
  yieldsTotal : Half
  /-- Device used, as the progress half shows it (R15). -/
  deviceUsed : Byte
  /-- The last attempt of the current instance that has ended. -/
  last : Option LastAttempt
  deriving DecidableEq, Repr

/-- The bank a WAITING card reserves (R40; log 10). -/
structure Bank where
  first : Nat
  count : Nat
  deriving DecidableEq, Repr

/-! ### Ports -/

/-- What crossed a bus: the conditions and bytes of the current or last attempt or recovery (R91 to R95, R103, R112 to R117;
log 37). -/
inductive BusItem
  | start | repeatedStart | stop
  /-- An address byte, and whether it was acknowledged. -/
  | address (b : Byte) (ack : Bool)
  /-- A byte the part sent, and whether it was acknowledged. -/
  | sent (b : Byte) (ack : Bool)
  /-- A byte the part received, and whether the part acknowledged it. -/
  | received (b : Byte) (ack : Bool)
  /-- Both lines released without a stop. -/
  | released
  /-- Clock pulses of a recovery. -/
  | pulses (n : Nat)
  /-- The clock of a four-wire port driven at its idle level. -/
  | clockIdle (high : Bool)
  /-- A bit presented on data out before the first clock edge. -/
  | dataOut (bit : Bool)
  /-- A select line asserted. -/
  | select (line : Nat)
  /-- A byte shifted out, and the byte shifted in where it is read. -/
  | shifted (out : Byte) (into : Option Byte)
  | deselect
  deriving DecidableEq, Repr

/-- An attempt in progress, with the entry copy it uses (R72, R90, R113). -/
structure Attempt where
  card : CardIx
  device : DevIx
  substituted : Bool
  entry : DeviceEntry
  /-- The time count at the arbiter's choice. -/
  chosenAt : Time
  /-- The start stamp, once the start or the select has been driven. -/
  start : Option Time
  /-- The fallback oscillator has driven the time count since the start stamp (R129). -/
  fallback : Bool
  /-- The attempt number of its records (R105). -/
  number : Nat
  deriving DecidableEq, Repr

/-- Phases of a two-wire attempt (R87). -/
inductive TwoPhase
  | start | address | data | turn | stop
  deriving DecidableEq, Repr

/-- What a recovery was begun for (R102, R107). -/
inductive RecoveryCause
  /-- A stretch timeout of the attempt, with the fields of its record (R102). -/
  | attempt (a : Attempt) (pos : BusPos) (lastAddress lastByte levels : Byte)
  /-- The line check of attach. -/
  | attach
  /-- The line check of a PORT_CLEAR; the port keeps its fence until the answer (R45). -/
  | portClear
  deriving DecidableEq, Repr

/-- A recovery in progress (R103). -/
structure Recovery where
  cause : RecoveryCause
  /-- The time count at its beginning. -/
  since : Time
  /-- The bus hold limit in force at its beginning, in us. -/
  limit : Nat
  /-- The limits that have come into force since, each with the time count of its sweep, latest first: a wait of the recovery keeps the
  limit it began with (R26). -/
  changes : List (Time × Nat)
  deriving DecidableEq, Repr

/-- Port states of a two-wire port (Table 5-1). -/
inductive TwoState
  | idle
  | held
  | active (phase : TwoPhase) (a : Attempt)
  | recovering (r : Recovery)
  | fenced
  deriving DecidableEq, Repr

/-- A two-wire port (R87). -/
structure TwoWire where
  state : TwoState
  /-- The bus view is BUSY. -/
  viewBusy : Bool
  lastStop : Time
  /-- The time count at which the 100 us bus-free measure last began (R88). -/
  measureFrom : Time
  /-- The hold timer: stopped, or its expiry time. -/
  holdTimer : Option Time
  /-- The stretch timer: stopped, or the time it started. -/
  stretchTimer : Option Time
  wire : List BusItem
  deriving DecidableEq, Repr

/-- Phases of a four-wire attempt (R111); in SELECT the select line may not have been asserted yet (R113). -/
inductive FourPhase
  | select (asserted : Bool)
  | data
  deriving DecidableEq, Repr

/-- Port states of a four-wire port (Table 6-1). -/
inductive FourState
  | idle
  | active (phase : FourPhase) (a : Attempt)
  | yielded
  | fenced
  deriving DecidableEq, Repr

/-- A four-wire port (R111). -/
structure FourWire where
  state : FourState
  lastDeselect : Time
  holdTimer : Option Time
  /-- The SENSE input is asserted (R118). -/
  sense : Bool
  wire : List BusItem
  deriving DecidableEq, Repr

/-! ### The whole part -/

/-- The part: everything the spec gives the block. -/
structure Part where
  time : TimeBase
  host : HostPort
  arbiter : Arbiter
  rep : Reports
  intake : Intake
  run : RunControl
  dev : DeviceUnit
  /-- The card contexts, by the card that holds one (R48; log 8). -/
  ctxs : Vector (Option Context) Config.cards
  /-- The bank reservations of WAITING cards (R40). -/
  waiting : Vector (Option Bank) Config.cards
  two : Vector TwoWire 2
  four : Vector FourWire 2
  /-- The MODEL'S own counter of free values used. -/
  freeCount : Nat
  deriving DecidableEq, Repr

/-- The state of the model: the part, and the commands that wait for it, first in first out. -/
structure State where
  part : Part
  pending : List Instr
  deriving DecidableEq, Repr

/-- Reasons a step stops.  Both are raised for a command that is no access of the part; SAFE: nothing is claimed of it. -/
inductive Fault
  /-- Raised by HOST_WRITE for an offset outside the exchange memory or no multiple of 4 (R157; log 29).  Safe. -/
  | noSuchWord (offset : Nat)
  /-- Raised by REGISTER_WRITE_IGNORED for a write that the part does not ignore (R163; log 29).  Safe. -/
  | writeNotIgnored (offset : Nat)
  deriving DecidableEq, Repr

/-- Reasons a command is refused.  Safe. -/
inductive Refusal
  /-- Raised by exec for a command that has no meaning in this model yet.  Safe. -/
  | notModelled (mnemonic : String)
  deriving DecidableEq, Repr

/-! ### Reset -/

/-- A device after reset (R71). -/
def DeviceRecord.reset : DeviceRecord := { health := .healthy, faults := 0, guard := none }

/-- The Device Status Unit after reset (R71, R83). -/
def DeviceUnit.reset : DeviceUnit := { recs := Vector.replicate Config.devices DeviceRecord.reset, subst := [] }

/-- The Intake Unit after reset (R21). -/
def Intake.reset : Intake := { timer := none, pending := false, pos := none, header := none, control := none }

/-- A two-wire port after a reset that ends at the time count 0 (R87). -/
def TwoWire.reset : TwoWire :=
  { state := .idle, viewBusy := true, lastStop := 0#32, measureFrom := 0#32, holdTimer := none, stretchTimer := none
    wire := [] }

/-- A four-wire port after a reset that ends at the time count 0 (R111); the SENSE input is not the part's to reset. -/
def FourWire.reset (sense : Bool) : FourWire :=
  { state := .idle, lastDeselect := 0#32, holdTimer := none, sense := sense, wire := [] }

/-- The part after a power-on reset whose clear has ended (log 4). -/
def Part.reset : Part where
  time := { count := 0#32, source := .fallback, runCount := 0, edgeGap := 0, boundary := false }
  host := { resetAsserted := false, clearing := false, held := [], dropped := 0#16, mirrorZeroed := false }
  arbiter := { serving := none, waiting := [] }
  rep :=
    { mem := [], done := 0#96, appendCount := 0#32, logLost := 0#16, queue := [], cause := 0#8, enable := 0#8, tally := 0
      holdoffTimer := none }
  intake := Intake.reset
  run := { state := .halted, stopHeld := false, attach := none, stoppedAt := 0#32 }
  dev := DeviceUnit.reset
  ctxs := Vector.replicate Config.cards none
  waiting := Vector.replicate Config.cards none
  two := Vector.replicate 2 TwoWire.reset
  four := Vector.replicate 2 (FourWire.reset false)
  freeCount := 0

/-- The machine right after reset: nothing waits. -/
def State.reset : State := { part := Part.reset, pending := [] }

end Sys2Proof.Machine
end

