-- ==== Sys2Proof/Machine/Memory.lean ====
section
/-! DEFINITION. The exchange memory: reading and writing one byte and one word, and the region ownership map (R156, R157). -/

namespace Sys2Proof.Machine

/-- The byte at an address; an unlisted address reads 0 (R162). -/
def Memory.get : Memory → Nat → Byte
  | [], _ => 0#8
  | (a, v) :: rest, addr => if a = addr then v else Memory.get rest addr

/-- Write one byte, keeping the cells in rising order and listing no zero. -/
def Memory.set : Memory → Nat → Byte → Memory
  | [], addr, v => if v = 0#8 then [] else [(addr, v)]
  | (a, w) :: rest, addr, v =>
    if addr < a then (if v = 0#8 then (a, w) :: rest else (addr, v) :: (a, w) :: rest)
    else if addr = a then (if v = 0#8 then rest else (addr, v) :: rest)
    else (a, w) :: Memory.set rest addr v

/-- The canonical form: addresses strictly rising, no cell zero. -/
def Memory.wf : Memory → Bool
  | [] => true
  | (a, v) :: rest => v != 0#8 && rest.all (fun c => decide (a < c.1)) && Memory.wf rest

/-- Write zeros to every address of which `p` holds. -/
def Memory.clearWhere (m : Memory) (p : Nat → Bool) : Memory := m.filter (fun c => !p c.1)

/-- The little-endian word at a byte offset. -/
def Memory.word (m : Memory) (addr : Nat) : Word :=
  Word.ofBytes (m.get addr) (m.get (addr + 1)) (m.get (addr + 2)) (m.get (addr + 3))

/-- Write the bytes of a word whose enables are set (R157). -/
def Memory.setEnabled (m : Memory) (addr : Nat) (w : Word) (enables : BitVec 4) : Memory :=
  let m0 := if enables.getLsbD 0 then m.set addr (w.byte 0) else m
  let m1 := if enables.getLsbD 1 then m0.set (addr + 1) (w.byte 1) else m0
  let m2 := if enables.getLsbD 2 then m1.set (addr + 2) (w.byte 2) else m1
  if enables.getLsbD 3 then m2.set (addr + 3) (w.byte 3) else m2

/-- Write a whole word. -/
def Memory.setWord (m : Memory) (addr : Nat) (w : Word) : Memory := m.setEnabled addr w 0xF#4

/-- Write words at successive word offsets, in order. -/
def Memory.setWords (m : Memory) (addr : Nat) : List Word → Memory
  | [] => m
  | w :: ws => Memory.setWords (m.setWord addr w) (addr + 4) ws

/-- The bytes at `n` successive addresses. -/
def Memory.bytes (m : Memory) (addr n : Nat) : List Byte := (List.range n).map (fun i => m.get (addr + i))

/-- The classes of words (R156). -/
inductive Region
  | posting | report | scratch
  deriving DecidableEq, Repr

/-- The region ownership map (R156, Tables 10-1, I-2). -/
def Memory.ownerOf (addr : Nat) : Region :=
  if addr < 0x0040 then .posting
  else if addr < 0x00C0 then .report
  else if addr < 0x0100 then .scratch
  else if addr < 0x0500 then .posting
  else if addr < 0x0600 then .report
  else if addr < 0x3600 then (if (addr - 0x0600) % 128 < 96 then .posting else .report)
  else if addr < 0x3E00 then .report
  else if addr < 0x4000 then .scratch
  else .report

/-! ### Addresses (Tables 12-1 to 12-3) -/

/-- Layout code of the posting header. -/
abbrev Addr.layout : Nat := 0x0000
abbrev Addr.sweepInterval : Nat := 0x0004
abbrev Addr.holdoff : Nat := 0x0008
abbrev Addr.threshold : Nat := 0x000C
abbrev Addr.logLevel : Nat := 0x0010
abbrev Addr.holdLimit : Nat := 0x0014
abbrev Addr.logTaken : Nat := 0x0018
abbrev Addr.headerFault : Nat := 0x0040
abbrev Addr.sweepCount : Nat := 0x0044
/-- The word of the log made and lost mirrors. -/
abbrev Addr.logMirror : Nat := 0x0048
abbrev Addr.droppedMirror : Nat := 0x004C
abbrev Addr.doneMap : Nat := 0x0050

/-- A device table entry. -/
def Addr.device (d : DevIx) : Nat := 0x0100 + 16 * d.val
/-- A device status word. -/
def Addr.status (d : DevIx) : Nat := 0x0500 + 4 * d.val
/-- A card's request half. -/
def Addr.card (n : CardIx) : Nat := 0x0600 + 128 * n.val
/-- A card's progress half. -/
def Addr.progress (n : CardIx) : Nat := Addr.card n + 96
/-- A fault record. -/
def Addr.record (i : Nat) : Nat := 0x3600 + 64 * i
/-- A sample slot. -/
def Addr.slot (i : Nat) : Nat := 0x4000 + 32 * i

/-- The address lies in the words that attach writes: the report header, the device status words and the progress halves
(R172). -/
def Addr.clearedByAttach (a : Nat) : Bool :=
  (decide (0x0040 ≤ a) && decide (a < 0x00C0)) || (decide (0x0500 ≤ a) && decide (a < 0x0600)) ||
    (decide (0x0600 ≤ a) && decide (a < 0x3600) && decide (96 ≤ (a - 0x0600) % 128))

end Sys2Proof.Machine
end

