-- ==== Sys2Proof/Machine/Operands.lean ====
section
/-! DEFINITION. The formats of the exchange memory (file 12): encodings of the enumerated fields, the order word, the request
half, the device table entry, the posting header, the sample slot and the fault record. -/

namespace Sys2Proof.Machine

/-! ### Encodings -/

/-- Table 12-11. -/
def ResultCode.code : ResultCode → Nat
  | .none => 0 | .ok => 1 | .okWithGaps => 2 | .nothingToDo => 3 | .late => 4 | .noAck => 5 | .dataRefused => 6
  | .yieldLimit => 7 | .checkFailed => 8 | .busFault => 9 | .deviceFenced => 10 | .portFenced => 11 | .deviceInvalid => 12
  | .debtLimit => 13 | .takenInvalid => 14 | .substFull => 15 | .withdrawnByOrder => 16 | .rejectCheck => 17
  | .rejectKind => 18 | .rejectDevice => 19 | .rejectLegs => 20 | .rejectBank => 21 | .rejectOverlap => 22
  | .rejectTiming => 23

/-- Table 12-10. -/
def ProgressState.code : ProgressState → Nat
  | .empty => 0 | .waiting => 1 | .accepted => 2 | .active => 3 | .ended => 4 | .failed => 5 | .withdrawn => 6
  | .rejected => 7

/-- The state a progress word's bits 0 to 2 give (Table 12-10). -/
def ProgressState.ofCode (n : Nat) : ProgressState :=
  match n with
  | 0 => .empty | 1 => .waiting | 2 => .accepted | 3 => .active | 4 => .ended | 5 => .failed | 6 => .withdrawn
  | _ => .rejected

/-- Table 12-14. -/
def FaultKind.code : FaultKind → Nat
  | .addressNack => 1 | .dataNack => 2 | .arbLost => 3 | .busError => 4 | .stretchTimeout => 5 | .checkMismatch => 6
  | .contention => 7 | .recoveryDone => 8 | .portStuck => 9 | .busHeld => 10 | .deviceFenced => 11
  | .substitutionMade => 12 | .substFull => 13 | .cardRejected => 14 | .debtLimit => 15 | .takenInvalid => 16
  | .refLost => 17 | .refBack => 18

/-- Table 12-13, byte 9. -/
def Disposition.code : Disposition → Nat
  | .none => 0 | .retried => 1 | .yielded => 2 | .ending => 3

/-- Table 12-13, byte 17. -/
def RecordPhase.code : RecordPhase → Nat
  | .none => 0 | .start => 1 | .address => 2 | .data => 3 | .turn => 4 | .stop => 5 | .select => 6

/-- Table 12-15, STATE bits 0 to 2. -/
def RunState.code : RunState → Nat
  | .halted => 0 | .attaching => 1 | .running => 2 | .quiescing => 3 | .stopped => 4 | .faulted => 5

/-- Table 12-6, byte 0. -/
def Health.code : Health → Nat
  | .healthy => 0 | .suspect => 1 | .fenced => 2

/-- A number as a byte. -/
abbrev byteOf (n : Nat) : Byte := BitVec.ofNat 8 n

/-- An index as a byte, or 0xFF where there is none (Tables 8-1, 12-6, 12-9). -/
def byteOrFF : Option Nat → Byte
  | some n => byteOf n
  | none => 0xFF#8

/-! ### Progress word (Table 12-9) -/

/-- The progress word: generation, state with result, debt, device used (R18). -/
def progressWord (generation : Byte) (state : ProgressState) (result : ResultCode) (debt : Nat) (deviceUsed : Byte) : Word :=
  Word.ofBytes generation (byteOf (state.code + 8 * result.code)) (byteOf debt) deviceUsed

/-- The generation of a card's progress word. -/
def progressGeneration (m : Memory) (n : CardIx) : Byte := m.get (Addr.progress n)

/-- The state of a card's progress word. -/
def progressState (m : Memory) (n : CardIx) : ProgressState :=
  ProgressState.ofCode ((m.get (Addr.progress n + 1)).toNat % 8)

/-- The result code field of a card's progress word. -/
def progressResult (m : Memory) (n : CardIx) : Nat := (m.get (Addr.progress n + 1)).toNat / 8

/-! ### Order word (R2, Table 1-1) -/

/-- An order as the Intake Unit reads it (R2). -/
inductive Order
  | idle
  | post (g : Byte)
  | withdraw (g : Byte)
  deriving DecidableEq, Repr

/-- Reading an order word: other kinds, and a POST of generation 0, are taken as IDLE (R2). -/
def Order.ofWord (w : Word) : Order :=
  if w.byte 0 = 1#8 then (if w.byte 1 = 0#8 then .idle else .post (w.byte 1))
  else if w.byte 0 = 2#8 then .withdraw (w.byte 1)
  else .idle

/-! ### Request half (Table 12-7) -/

/-- A leg descriptor as read (Table 12-8). -/
structure LegField where
  op : Nat
  length : Nat
  offset : Nat
  deriving DecidableEq, Repr

/-- The intake buffer: the check field and the fields of bytes 12 to 95 (R34). -/
structure Request where
  check : Half
  /-- Bytes 12 to 95, the coverage of the check (R14). -/
  covered : List Byte
  kind : Nat
  priority : Nat
  device : Nat
  aux : Nat
  flags : Byte
  legCount : Nat
  bankCount : Nat
  bankFirst : Nat
  window : Nat
  due : Time
  period : Word
  count : Nat
  legs : List LegField
  inline : List Byte
  deriving DecidableEq, Repr

/-- The 16-bit field at an address. -/
def Memory.half (m : Memory) (addr : Nat) : Half := m.get (addr + 1) ++ m.get addr

/-- Reading card `n` into the intake buffer (R34, Tables 12-7, 12-8). -/
def readRequest (m : Memory) (n : CardIx) : Request :=
  let a := Addr.card n
  { check := m.half (a + 8)
    covered := m.bytes (a + 12) 84
    kind := (m.get (a + 12)).toNat
    priority := (m.get (a + 13)).toNat
    device := (m.get (a + 14)).toNat
    aux := (m.get (a + 15)).toNat
    flags := m.get (a + 16)
    legCount := (m.get (a + 17)).toNat
    bankCount := (m.get (a + 18)).toNat
    bankFirst := (m.half (a + 20)).toNat
    window := (m.half (a + 22)).toNat
    due := m.word (a + 24)
    period := m.word (a + 28)
    count := (m.half (a + 32)).toNat
    legs := (List.range 4).map (fun i =>
      { op := (m.get (a + 36 + 4 * i)).toNat
        length := (m.get (a + 37 + 4 * i)).toNat
        offset := (m.get (a + 38 + 4 * i)).toNat })
    inline := m.bytes (a + 52) 44 }

/-- The legs within the leg count. -/
def Request.usedLegs (r : Request) : List LegField := r.legs.take r.legCount

/-- The card's taken counter (R4). -/
def takenCounter (m : Memory) (n : CardIx) : Half := (m.word (Addr.card n + 4)).low

/-! ### Device table entry (Tables 4-1, 12-5) -/

/-- Reading a device's entry (R72). -/
def readEntry (m : Memory) (d : DevIx) : DeviceEntry :=
  let a := Addr.device d
  { present := (m.get a).getLsbD 0
    tenBit := (m.get a).getLsbD 1
    check := (m.get a).getLsbD 2
    port := (m.get (a + 1)).toNat
    address := (m.half (a + 2)).toNat
    speed := (m.get (a + 4)).toNat
    mode := (m.get (a + 5)).toNat
    fill := m.get (a + 6)
    retryLimit := (m.get (a + 7)).toNat
    retryGap := (m.get (a + 8)).toNat
    threshold := (m.get (a + 9)).toNat
    standby := (m.get (a + 10)).toNat
    reply := (m.half (a + 12)).toNat
    guardTime := (m.half (a + 14)).toNat }

/-- An entry is legal when every field its port's kind uses lies within its range (R70, Table 4-1). -/
def DeviceEntry.legal (e : DeviceEntry) : Bool :=
  decide (e.port ≤ 3) &&
  (if e.port < 2 then
    (if e.tenBit then decide (e.address ≤ 1023) else decide (0x08 ≤ e.address) && decide (e.address ≤ 0x77)) &&
      decide (e.speed ≤ 2)
  else decide (e.address ≤ 3) && decide (e.mode ≤ 3)) &&
  decide (e.retryLimit ≤ 7) && decide (e.threshold ≤ 15) && (decide (e.standby ≤ 63) || e.standby == 0xFF) &&
  decide (1 ≤ e.reply)

/-- An entry is PRESENT and legal (R35, R73). -/
def DeviceEntry.usable (e : DeviceEntry) : Bool := e.present && e.legal

/-- The port an entry names. -/
def DeviceEntry.portIx (e : DeviceEntry) : PortIx := Fin.ofNat 4 e.port

/-! ### Posting header (Tables 2-1, 12-2) -/

/-- Header fault codes (Table 12-4). -/
inductive HeaderFault
  | none | layout | sweepInterval | holdoff | sampleThreshold | logLevel | holdLimit
  deriving DecidableEq, Repr

/-- Table 12-4. -/
def HeaderFault.code : HeaderFault → Nat
  | .none => 0 | .layout => 1 | .sweepInterval => 2 | .holdoff => 3 | .sampleThreshold => 4 | .logLevel => 5
  | .holdLimit => 6

/-- The five values as read, each a whole word (R25). -/
structure HeaderWords where
  interval : Nat
  holdoff : Nat
  threshold : Nat
  level : Nat
  holdLimit : Nat
  deriving DecidableEq, Repr

/-- Reading the five values (Table 12-2). -/
def readHeader (m : Memory) : HeaderWords :=
  { interval := (m.word Addr.sweepInterval).toNat
    holdoff := (m.word Addr.holdoff).toNat
    threshold := (m.word Addr.threshold).toNat
    level := (m.word Addr.logLevel).toNat
    holdLimit := (m.word Addr.holdLimit).toNat }

/-- The ranges of Table 2-1. -/
def HeaderWords.intervalOk (h : HeaderWords) : Bool := decide (100 ≤ h.interval) && decide (h.interval ≤ 100000)
def HeaderWords.holdoffOk (h : HeaderWords) : Bool := decide (h.holdoff ≤ 65535)
def HeaderWords.thresholdOk (h : HeaderWords) : Bool := decide (1 ≤ h.threshold) && decide (h.threshold ≤ 255)
def HeaderWords.levelOk (h : HeaderWords) : Bool := decide (h.level ≤ 1)
def HeaderWords.holdLimitOk (h : HeaderWords) : Bool := decide (1 ≤ h.holdLimit) && decide (h.holdLimit ≤ 255)

/-- The code of the first out-of-range value in the order of Table 2-1, or NONE (R25). -/
def HeaderWords.fault (h : HeaderWords) : HeaderFault :=
  if !h.intervalOk then .sweepInterval
  else if !h.holdoffOk then .holdoff
  else if !h.thresholdOk then .sampleThreshold
  else if !h.levelOk then .logLevel
  else if !h.holdLimitOk then .holdLimit
  else .none

/-- The log level a header word gives (Table 12-2). -/
def logLevelOf (n : Nat) : LogLevel := if n = 1 then .full else .quiet

/-- All five values as values in force (R171). -/
def HeaderWords.all (h : HeaderWords) : Header :=
  { interval := h.interval, holdoff := h.holdoff, threshold := h.threshold, level := logLevelOf h.level
    holdLimit := h.holdLimit }

/-- Each value within its range becomes the value in force; the others stay as they were (R25). -/
def HeaderWords.mergeInto (h : HeaderWords) (old : Header) : Header :=
  { interval := if h.intervalOk then h.interval else old.interval
    holdoff := if h.holdoffOk then h.holdoff else old.holdoff
    threshold := if h.thresholdOk then h.threshold else old.threshold
    level := if h.levelOk then logLevelOf h.level else old.level
    holdLimit := if h.holdLimitOk then h.holdLimit else old.holdLimit }

/-! ### Sample slot (Table 12-12) -/

/-- A sample (Table 7-1). -/
structure Sample where
  sequence : Half
  card : CardIx
  generation : Byte
  start : Time
  status : ResultCode
  readCount : Nat
  late : Bool
  catchUpRun : Bool
  substituted : Bool
  fallback : Bool
  data : List Byte
  deriving DecidableEq, Repr

/-- A flag bit. -/
def flagBit (b : Bool) (i : Nat) : Byte := if b then (1#8 <<< i) else 0#8

/-- The flags byte of a sample (Table 12-12). -/
def Sample.flagsByte (p : Sample) : Byte :=
  flagBit p.late 0 ||| flagBit p.catchUpRun 1 ||| flagBit p.substituted 2 ||| flagBit p.fallback 3

/-- Data byte `i`; bytes beyond the read data are 0 (R128). -/
def Sample.dataByte (p : Sample) (i : Nat) : Byte := p.data.getD i 0#8

/-- The eight words of a sample slot, in order of offset (Table 12-12). -/
def Sample.words (p : Sample) : List Word :=
  [Word.ofBytes (p.sequence.extractLsb' 0 8) (p.sequence.extractLsb' 8 8) (byteOf p.card.val) p.generation,
   p.start,
   Word.ofBytes (byteOf p.status.code) (byteOf p.readCount) p.flagsByte (p.dataByte 0),
   Word.ofBytes (p.dataByte 1) (p.dataByte 2) (p.dataByte 3) (p.dataByte 4),
   Word.ofBytes (p.dataByte 5) (p.dataByte 6) (p.dataByte 7) (p.dataByte 8),
   Word.ofBytes (p.dataByte 9) (p.dataByte 10) (p.dataByte 11) (p.dataByte 12),
   Word.ofBytes (p.dataByte 13) (p.dataByte 14) (p.dataByte 15) (p.dataByte 16),
   Word.ofBytes (p.dataByte 17) 0#8 (p.sequence.extractLsb' 0 8) (p.sequence.extractLsb' 8 8)]

/-! ### Fault record (Table 12-13) -/

/-- The sixteen words of a fault record, in order of offset (Table 12-13). -/
def FaultRecord.words (f : FaultRecord) (sequence : Word) : List Word :=
  [sequence,
   f.time,
   Word.ofBytes (byteOf f.kind.code) (byteOf f.disposition.code) (byteOf f.result.code) (byteOrFF (f.port.map Fin.val)),
   Word.ofBytes (byteOrFF (f.device.map Fin.val)) (byteOrFF (f.resolved.map Fin.val)) (byteOrFF (f.card.map Fin.val))
     f.generation,
   Word.ofBytes (byteOf f.attempt) (byteOf f.phase.code) f.leg f.byteIndex,
   Word.ofBytes f.lastAddress f.lastByte f.levels 0#8,
   0#32, 0#32, 0#32, 0#32, 0#32, 0#32, 0#32, 0#32, 0#32,
   sequence]

/-- A record with every field but time and kind at its absent value (Table 8-1). -/
def FaultRecord.bare (kind : FaultKind) (time : Time) : FaultRecord :=
  { time := time, kind := kind, disposition := .none, result := .none, port := none, device := none, resolved := none
    card := none, generation := 0#8, attempt := 0, phase := .none, leg := 0#8, byteIndex := 0#8, lastAddress := 0#8
    lastByte := 0#8, levels := 0#8 }

end Sys2Proof.Machine
end

