-- ==== Sys2Proof/Machine/Flags.lean ====
section
/-! DEFINITION. The Attention Unit: CAUSE latches, ENABLE, IRQ and the coalescing of sample notifications (R149 to R155). -/

namespace Sys2Proof.Machine

/-- The eight latches (Table 9-1). -/
inductive Latch
  | done | sample | fault | backlog | port | header | clock | runState
  deriving DecidableEq, Repr

/-- The bit of a latch in CAUSE and ENABLE (Table 12-15). -/
def Latch.bit : Latch → Nat
  | .done => 0 | .sample => 1 | .fault => 2 | .backlog => 3 | .port => 4 | .header => 5 | .clock => 6 | .runState => 7

/-- The mask of a latch. -/
def Latch.mask (l : Latch) : Byte := 1#8 <<< l.bit

/-- The latch is set. -/
def Reports.latch (r : Reports) (l : Latch) : Bool := r.cause.getLsbD l.bit

/-- Setting a latch; one already set stays set (R150). -/
def Reports.setLatch (r : Reports) (l : Latch) : Reports := { r with cause := r.cause ||| l.mask }

/-- IRQ: at least one latch is set with its enable bit set (R152). -/
def Reports.irq (r : Reports) : Bool := (r.cause &&& r.enable) != 0#8

/-- A host write to CAUSE: each latch written with 1 is cleared; a 1 for SAMPLE also zeroes the tally and stops the holdoff
timer, whether SAMPLE was set or not (R151, R155); a byte not enabled is written with 0 (R165). -/
def Reports.writeCause (r : Reports) (value : Word) (enables : BitVec 4) : Reports :=
  let w := if enables.getLsbD 0 then value.byte 0 else 0#8
  let r0 := { r with cause := r.cause &&& ~~~w }
  if w.getLsbD Latch.sample.bit then { r0 with tally := 0, holdoffTimer := none } else r0

/-- A host write to ENABLE: the enable bits in the enabled bytes; all eight lie in byte 0 (R152, R165). -/
def Reports.writeEnable (r : Reports) (value : Word) (enables : BitVec 4) : Reports :=
  if enables.getLsbD 0 then { r with enable := value.byte 0 } else r

/-- The Attention Unit is told of a NOTIFY sample (R153), with the threshold and holdoff in force. -/
def Reports.sampleTold (r : Reports) (threshold holdoff : Nat) (now : Time) : Reports :=
  if r.latch .sample then { r with tally := min 255 (r.tally + 1) }
  else
    let timer := if r.tally = 0 then some (now + BitVec.ofNat 32 holdoff) else r.holdoffTimer
    let tally := min 255 (r.tally + 1)
    if holdoff = 0 ∨ threshold ≤ tally then
      Reports.setLatch { r with tally := tally, holdoffTimer := none } .sample
    else { r with tally := tally, holdoffTimer := timer }

/-- The expiry of the holdoff timer (R154). -/
def Reports.holdoffExpired (r : Reports) : Reports := Reports.setLatch { r with holdoffTimer := none } .sample

end Sys2Proof.Machine
end

