-- ==== Sys2Proof/Machine/Reports.lean ====
section
/-! DEFINITION. What the part writes into the exchange memory: the fault log (R140 to R148), progress words, the done map
(R15, R18, R20, R138) and the closed runs of words of slots and records (R134, R146). -/

namespace Sys2Proof.Machine

/-- Writing a slot or record: its last word, then the words between in rising order, last its first word (R134, R146). -/
def Memory.setClosed (m : Memory) (addr : Nat) (ws : List Word) : Memory :=
  let m0 := m.setWord (addr + 4 * (ws.length - 1)) (ws.getLastD 0#32)
  let m1 := m0.setWords (addr + 4) ws.tail.dropLast
  m1.setWord addr (ws.headD 0#32)

/-! ### The fault log -/

/-- The log made counter, the low half of the append count (R140). -/
def Reports.logMade (r : Reports) : Half := r.appendCount.low

/-- Writing the made and lost mirrors; they share one word (Table 12-3). -/
def Reports.writeLogMirror (r : Reports) : Reports :=
  { r with mem := r.mem.setWord Addr.logMirror (Word.ofHalves r.logMade r.logLost) }

/-- A record is lost: the lost count rises, saturating, its mirror is written and CAUSE.FAULT set (R141, R147). -/
def Reports.loseRecord (r : Reports) : Reports :=
  (Reports.writeLogMirror { r with logLost := r.logLost.saturatingAdd 1 }).setLatch .fault

/-- The attempt-error kinds (R142). -/
def FaultKind.attemptError : FaultKind → Bool
  | .addressNack | .dataNack | .arbLost | .busError | .stretchTimeout | .contention | .checkMismatch => true
  | .recoveryDone | .portStuck | .busHeld | .deviceFenced | .substitutionMade | .substFull | .cardRejected | .debtLimit
  | .takenInvalid | .refLost | .refBack => false

/-- The log level keeps a request: FULL every one, QUIET all but attempt errors that were retried or yielded (R142). -/
def LogLevel.keeps (level : LogLevel) (f : FaultRecord) : Bool :=
  match level with
  | .full => true
  | .quiet => !f.kind.attemptError || f.disposition == .ending

/-- Requests are taken in RUNNING, QUIESCING, STOPPED and ATTACHING, and discarded in HALTED and FAULTED (R141). -/
def RunState.takesRequests : RunState → Bool
  | .running | .quiescing | .stopped | .attaching => true
  | .halted | .faulted => false

/-- The Fault Log Unit accepts, discards or loses a request (R141). -/
def Reports.request (r : Reports) (state : RunState) (level : LogLevel) (f : FaultRecord) : Reports :=
  if !state.takesRequests then r
  else if !level.keeps f then r
  else if r.queue.length < Config.queueEntries then { r with queue := r.queue ++ [f] }
  else r.loseRecord

/-- The log-taken counter of the posting header (R140). -/
def logTaken (m : Memory) : Half := (m.word Addr.logTaken).low

/-- Appending a record (R145, R146): its slot is made mod 32, its sequence the append count plus 1; then the append count
rises, the made mirror is written and CAUSE.FAULT set. -/
def Reports.appendRecord (r : Reports) (f : FaultRecord) : Reports :=
  let r0 := { r with mem := r.mem.setClosed (Addr.record (r.logMade.toNat % 32)) (f.words (r.appendCount + 1#32)) }
  (Reports.writeLogMirror { r0 with appendCount := r.appendCount + 1#32 }).setLatch .fault

/-- Taking the request at the head of the queue: appended when the fill is below 32, lost when it is not (R145, R147). -/
def Reports.takeRequest (r : Reports) : Reports :=
  match r.queue with
  | [] => r
  | f :: rest =>
    let r0 := { r with queue := rest }
    if (r.logMade - logTaken r.mem).toNat < 32 then r0.appendRecord f else r0.loseRecord

/-! ### Progress halves and the done map -/

/-- Writing a progress word (R18). -/
def Reports.writeProgress (r : Reports) (n : CardIx) (w : Word) : Reports :=
  { r with mem := r.mem.setWord (Addr.progress n) w }

/-- Writing the new-generation values of the fields after the progress word, all 0 (R15, Table 1-5). -/
def Reports.newGeneration (r : Reports) (n : CardIx) : Reports :=
  { r with mem := r.mem.setWords (Addr.progress n + 4) [0#32, 0#32, 0#32, 0#32, 0#32, 0#32, 0#32] }

/-- The word of the done map holding a card's bit, written from the held copy (R138). -/
def Reports.writeDoneWord (r : Reports) (n : CardIx) : Reports :=
  let w := n.val / 32
  { r with mem := r.mem.setWord (Addr.doneMap + 4 * w) (r.done.extractLsb' (32 * w) 32) }

/-- A card's done bit is set, then CAUSE.DONE (R20, R137). -/
def Reports.setDone (r : Reports) (n : CardIx) : Reports :=
  (Reports.writeDoneWord { r with done := r.done ||| (1#96 <<< n.val) } n).setLatch .done

/-- A card's done bit is cleared (R20, R28). -/
def Reports.clearDone (r : Reports) (n : CardIx) : Reports :=
  Reports.writeDoneWord { r with done := r.done &&& ~~~(1#96 <<< n.val) } n

/-- An end state reached without a context: progress word, done bit, CAUSE.DONE (R137). -/
def Reports.endWord (r : Reports) (n : CardIx) (w : Word) : Reports := (r.writeProgress n w).setDone n

end Sys2Proof.Machine
end

