-- ==== Sys2Proof/Machine/Ops.lean ====
section
/-! DEFINITION. The shared operations over the whole part: contexts, fault requests, latches, progress words, ports and ready
lists. -/

namespace Sys2Proof.Machine

/-! ### Reading the part -/

/-- The time count. -/
def Part.now (s : Part) : Time := s.time.count

/-- The event time lies at or before the time count (R47). -/
def Part.dueBy (s : Part) (t : Time) : Bool := Time.atOrAfter s.now t

/-- A timer is running and its expiry lies at or before the time count. -/
def Part.expired (s : Part) (timer : Option Time) : Bool :=
  match timer with
  | some t => s.dueBy t
  | none => false

/-- The port asserts not ready (R162). -/
def Part.notReady (s : Part) : Bool := s.host.resetAsserted || s.host.clearing

/-- The context card `n` holds. -/
def Part.ctx (s : Part) (n : CardIx) : Option Context := s.ctxs[n]

/-- All card indices, in rising order. -/
def allCards : List CardIx := List.finRange Config.cards

/-- The number of contexts held (R48). -/
def Part.heldContexts (s : Part) : Nat := s.ctxs.toList.countP Option.isSome

/-- The log level applied to requests: the value in force, or QUIET when none is (R142). -/
def Part.logLevel (s : Part) : LogLevel :=
  match s.intake.header with
  | some h => h.level
  | none => .quiet

/-- The run states in which ports take up HELD and YIELDED and their hold timers run (R89, R118). -/
def RunState.live : RunState → Bool
  | .running | .quiescing | .stopped => true
  | .halted | .attaching | .faulted => false

/-- The Schedule Unit takes its timed events: in STOPPED they are held (R66, R67). -/
def Part.takesEvents (s : Part) : Bool := s.run.state == .running || s.run.state == .quiescing

/-- The expiry of a hold timer started now, from the bus hold limit in force (R100, R118). -/
def Part.holdExpiry (s : Part) : Option Time :=
  s.intake.header.map (fun h => s.now + BitVec.ofNat 32 (1000 * h.holdLimit))

/-- The bus hold limit in force, in us. -/
def Part.holdLimitUs (s : Part) : Nat :=
  match s.intake.header with
  | some h => 1000 * h.holdLimit
  | none => 0

/-- The fenced indication of a two-wire port; it stays set through the line check of a PORT_CLEAR (R45, R108). -/
def TwoWire.isFenced (t : TwoWire) : Bool :=
  match t.state with
  | .fenced => true
  | .recovering r => r.cause == .portClear
  | .idle | .held | .active _ _ => false

/-- The fenced indication of a four-wire port (R121). -/
def FourWire.isFenced (t : FourWire) : Bool :=
  match t.state with
  | .fenced => true
  | .idle | .yielded | .active _ _ => false

/-- Port 0 or 1. -/
def twoPort (p : TwoIx) : PortIx := ⟨p.val, by omega⟩

/-- Port 2 or 3. -/
def fourPort (q : FourIx) : PortIx := ⟨q.val + 2, by omega⟩

/-- The fenced indication of a port (Table 12-15, STATE). -/
def Part.portFenced (s : Part) (p : PortIx) : Bool :=
  if h : p.val < 2 then (s.two[(⟨p.val, h⟩ : TwoIx)]).isFenced
  else (s.four[(⟨p.val - 2, by omega⟩ : FourIx)]).isFenced

/-- A two-wire port has an attempt in progress; an attempt includes the recovery after a stretch timeout (R102, R173). -/
def TwoWire.busy (t : TwoWire) : Bool :=
  match t.state with
  | .active _ _ => true
  | .recovering r => (match r.cause with | .attempt _ _ _ _ _ => true | .attach | .portClear => false)
  | .idle | .held | .fenced => false

/-- A four-wire port has an attempt in progress. -/
def FourWire.busy (t : FourWire) : Bool :=
  match t.state with
  | .active _ _ => true
  | .idle | .yielded | .fenced => false

/-- Some port has an attempt in progress (R173). -/
def Part.attemptInProgress (s : Part) : Bool := s.two.toList.any TwoWire.busy || s.four.toList.any FourWire.busy

/-- The card's instance is WAITING on the ready list of port `p`. -/
def Context.onList (c : Context) (p : PortIx) : Bool := c.phase == .waiting p

/-- The ready list of a port, by card index (R58; log 9). -/
def Part.readyCards (s : Part) (p : PortIx) : List CardIx :=
  allCards.filter (fun n => match s.ctx n with | some c => c.onList p | none => false)

/-- Due time of instance `i` of a card: base + i × period (R49). -/
def Context.dueTime (c : Context) (i : Word) : Time := c.base + i * c.period

/-- The progress word of a held context in a given state (R18). -/
def Context.wordAs (c : Context) (state : ProgressState) (result : ResultCode) : Word :=
  progressWord c.generation state result c.debt c.deviceUsed

/-- The progress word of a live card: ACCEPTED or ACTIVE with NONE. -/
def Context.liveWord (c : Context) : Word := c.wordAs (if c.active then .active else .accepted) .none

/-! ### Changing the part -/

/-- Giving card `n` a context, or freeing it. -/
def Part.setCtx (s : Part) (n : CardIx) (c : Option Context) : Part := { s with ctxs := s.ctxs.set n.val c n.isLt }

/-- Setting or ending card `n`'s reservation as a WAITING card. -/
def Part.setWaiting (s : Part) (n : CardIx) (b : Option Bank) : Part :=
  { s with waiting := s.waiting.set n.val b n.isLt }

/-- Replacing a two-wire port. -/
def Part.setTwo (s : Part) (p : TwoIx) (t : TwoWire) : Part := { s with two := s.two.set p.val t p.isLt }

/-- Replacing a four-wire port. -/
def Part.setFour (s : Part) (q : FourIx) (t : FourWire) : Part := { s with four := s.four.set q.val t q.isLt }

/-- A change of the reports alone. -/
def Part.report (s : Part) (f : Reports → Reports) : Part := { s with rep := f s.rep }

/-- Asking the Fault Log Unit for a record (R141). -/
def Part.request (s : Part) (f : FaultRecord) : Part :=
  s.report (fun r => r.request s.run.state s.logLevel f)

/-- Telling the Attention Unit (R150). -/
def Part.tell (s : Part) (l : Latch) : Part := s.report (fun r => r.setLatch l)

/-- Writing one word of card `n`'s progress half, at an offset from its beginning. -/
def Part.writeProgressWord (s : Part) (n : CardIx) (offset : Nat) (w : Word) : Part :=
  s.report (fun r => { r with mem := r.mem.setWord (Addr.progress n + offset) w })

/-- Writing the progress word of a live card (R18). -/
def Part.writeLive (s : Part) (n : CardIx) (c : Context) : Part := s.report (fun r => r.writeProgress n c.liveWord)

/-- A card ends (R62, R137): its timers go with its context, its instance leaves any ready list, the progress word and the done
bit are written, CAUSE.DONE is set, and the context is free. -/
def Part.endCard (s : Part) (n : CardIx) (c : Context) (state : ProgressState) (result : ResultCode) : Part :=
  (s.report (fun r => r.endWord n (c.wordAs state result))).setCtx n none

/-- A two-wire port takes up IDLE, or HELD with its hold timer started if its view is BUSY in a live run state (R89, R100). -/
def Part.twoIdle (s : Part) (t : TwoWire) : TwoWire :=
  if t.viewBusy && s.run.state.live then { t with state := .held, holdTimer := s.holdExpiry }
  else { t with state := .idle, holdTimer := none }

/-- A four-wire port takes up IDLE, or YIELDED with its hold timer started if SENSE is asserted in a live run state (R118). -/
def Part.fourIdle (s : Part) (t : FourWire) : FourWire :=
  if t.sense && s.run.state.live then { t with state := .yielded, holdTimer := s.holdExpiry }
  else { t with state := .idle, holdTimer := none }

/-- In QUIESCING, with no attempt and no visit in progress, the part enters STOPPED (R173). -/
def Part.tryStop (s : Part) : Part :=
  if s.run.state == .quiescing && !s.attemptInProgress && s.intake.pos.isNone then
    Part.tell { s with run := { s.run with state := .stopped, stoppedAt := s.now } } .runState
  else s

/-- An event while RESET_N is asserted is not taken: every block is in reset (R170; log 7). -/
def Part.unlessReset (s : Part) (f : Part → Part) : Part := if s.host.resetAsserted then s else f s

end Sys2Proof.Machine
end

