-- ==== Sys2Proof/Machine/Devices.lean ====
section
/-! DEFINITION. The Device Status Unit without the ends of instances: resolution, health counting, guards, the substitution
map and the status words (R70 to R86). -/

namespace Sys2Proof.Machine

/-- What a resolution gives: the resolved device, its port, the entry read, and the substituted mark (R73). -/
structure Resolution where
  device : DevIx
  port : PortIx
  entry : DeviceEntry
  substituted : Bool
  deriving DecidableEq, Repr

/-- The record of a device. -/
def DeviceUnit.get (u : DeviceUnit) (d : DevIx) : DeviceRecord := u.recs[d]

/-- Replacing the record of a device. -/
def DeviceUnit.put (u : DeviceUnit) (d : DevIx) (r : DeviceRecord) : DeviceUnit :=
  { u with recs := u.recs.set d.val r d.isLt }

/-- The health of a device is FENCED. -/
def DeviceUnit.isFenced (u : DeviceUnit) (d : DevIx) : Bool := (u.get d).health == .fenced

/-- The standby of the map entry whose primary is `d` (R83). -/
def DeviceUnit.standbyOf (u : DeviceUnit) (d : DevIx) : Option DevIx := (u.subst.find? (fun e => e.1 == d)).map Prod.snd

/-- A standby is usable when its entry is PRESENT and legal and its health is not FENCED (R73). -/
def Part.usableStandby (s : Part) (d : DevIx) : Bool := (readEntry s.rep.mem d).usable && !s.dev.isFenced d

/-- The device that serves for `d`, whose entry is usable, and the substituted mark (R73, steps 2 to 4). -/
def Part.serving (s : Part) (d : DevIx) : Option (DevIx × Bool) :=
  if !s.dev.isFenced d then some (d, false)
  else
    match s.dev.standbyOf d with
    | some b => if s.usableStandby b then some (b, true) else none
    | none => none

/-- Resolution (R73). -/
def Part.resolve (s : Part) (d : DevIx) : Except ResultCode Resolution :=
  if !(readEntry s.rep.mem d).usable then .error .deviceInvalid
  else
    match s.serving d with
    | none => .error .deviceFenced
    | some (r, substituted) =>
      let e := readEntry s.rep.mem r
      if s.portFenced e.portIx then .error .portFenced
      else .ok { device := r, port := e.portIx, entry := e, substituted := substituted }

/-- A device's status word: health, fault count, substitute, guard active (R86, Table 12-6). -/
def DeviceUnit.statusWord (u : DeviceUnit) (d : DevIx) : Word :=
  Word.ofBytes (byteOf (u.get d).health.code) (byteOf (u.get d).faults) (byteOrFF ((u.standbyOf d).map Fin.val))
    (flagBit (u.get d).guard.isSome 0)

/-- The status word an attach writes: HEALTHY, count 0, substitute 0xFF, guard clear (R86). -/
abbrev statusAtAttach : Word := 0x00FF0000#32

/-- The Device Status Unit takes new contents, and the status word of `d` is written if one of its fields has changed (R86). -/
def Part.changeDevice (s : Part) (u : DeviceUnit) (d : DevIx) : Part :=
  let s0 := { s with dev := u }
  if u.statusWord d = s.dev.statusWord d then s0
  else s0.report (fun r => { r with mem := r.mem.setWord (Addr.status d) (u.statusWord d) })

/-- A device under guard makes its instances ineligible (R82). -/
def Part.underGuard (s : Part) (d : DevIx) : Bool := (s.dev.get d).guard.isSome

/-- An instance ended successfully on `r`: unless FENCED its count becomes 0 and its health HEALTHY (R76), and under the
SETTING flag a nonzero guard time puts it under guard from the end stamp (R81). -/
def Part.deviceSucceeded (s : Part) (r : DevIx) (setting : Bool) (guardTime : Nat) (endStamp : Time) : Part :=
  let d := s.dev.get r
  let d0 := if d.health == .fenced then d else { d with health := .healthy, faults := 0 }
  let d1 :=
    if setting && decide (guardTime ≠ 0) then { d0 with guard := some (endStamp + BitVec.ofNat 32 (10 * guardTime)) }
    else d0
  s.changeDevice (s.dev.put r d1) r

/-- The expiry of a guard (R82). -/
def Part.guardExpired (s : Part) (d : DevIx) : Part :=
  s.changeDevice (s.dev.put d { s.dev.get d with guard := none }) d

/-- Entering or replacing the map entry of a primary (R43, R84). -/
def DeviceUnit.enter (u : DeviceUnit) (d b : DevIx) : DeviceUnit :=
  if u.subst.any (fun e => e.1 == d) then { u with subst := u.subst.map (fun e => if e.1 == d then (d, b) else e) }
  else { u with subst := u.subst ++ [(d, b)] }

/-- Removing the map entry of a primary (R85). -/
def DeviceUnit.remove (u : DeviceUnit) (d : DevIx) : DeviceUnit :=
  { u with subst := u.subst.filter (fun e => !(e.1 == d)) }

/-- The device has something to restore: it is not HEALTHY, or under guard, or a primary of the map (R44). -/
def DeviceUnit.restorable (u : DeviceUnit) (d : DevIx) : Bool :=
  (u.get d).health != .healthy || (u.get d).guard.isSome || (u.standbyOf d).isSome

/-- A device index from a field, none at 64 or above. -/
def devIx? (n : Nat) : Option DevIx := if h : n < Config.devices then some ⟨n, h⟩ else none

end Sys2Proof.Machine
end

