-- ==== Sys2Proof/Machine/Schedule.lean ====
section
/-! DEFINITION. The Schedule Unit's rules for one card: ends of instances with the Result Unit's writes, misses, due arrivals,
overtakes, windows, retry gaps, and the order in which events that are due at once are taken (R49 to R57, R60 to R62, R67, R68,
R126 to R137). -/

namespace Sys2Proof.Machine

/-! ### What is left to do for a card -/

/-- The timed events that the work in progress may take at once: those it has armed itself (R47), or all of them in the pass of a
resume (R68). -/
structure Fresh where
  gap : Bool
  arrival : Bool
  window : Bool
  deriving DecidableEq, Repr

/-- No timed event may be taken. -/
def Fresh.none : Fresh := { gap := false, arrival := false, window := false }

/-- Every timed event may be taken. -/
def Fresh.all : Fresh := { gap := true, arrival := true, window := true }

/-- Left to do for a card: to place its current instance by a resolution without a window, or to take its events that are due. -/
inductive Work
  | place (f : Fresh)
  | settle (f : Fresh)
  deriving DecidableEq, Repr

/-- In which pass events are taken: at acceptance windows are measured from the acceptance (R51); the events of a resume are ordered
from the moment STOPPED was entered (R68). -/
structure PassMode where
  fromAcceptance : Bool
  resume : Bool
  deriving DecidableEq, Repr

/-- An event taken alone, by its own command or in the step that armed it. -/
def PassMode.plain : PassMode := { fromAcceptance := false, resume := false }

/-- The timed events of a card (R47, R68): retry gap, due arrival of the current instance, window, overtake. -/
inductive TimedEvent
  | gap | arrival | window | overtake
  deriving DecidableEq, Repr

/-! ### The Result Unit at an instance end -/

/-- The number of read data bytes of the card's legs (Table 7-1). -/
def Context.readTotal (c : Context) : Nat := ((c.legs.filter (fun l => l.op == .read)).map Leg.length).sum

/-- The sample of an instance end (R128, R129). -/
def Context.sample (c : Context) (n : CardIx) (la : LastAttempt) (code : ResultCode) (data : List Byte) : Sample :=
  let ok := code == .ok
  { sequence := c.made + 1#16, card := n, generation := c.generation, start := la.start, status := code
    readCount := if ok then c.readTotal else 0, late := c.late, catchUpRun := c.catchUpRun, substituted := la.substituted
    fallback := la.fallback, data := if ok then data.take c.readTotal else [] }

/-- Writing the word of made and lost (R135, step 2). -/
def Part.writeMadeLost (s : Part) (n : CardIx) (c : Context) : Part := s.writeProgressWord n 4 (Word.ofHalves c.made c.lost)

/-- Telling the Attention Unit of a sample of a NOTIFY card, with the threshold and holdoff in force (R135, R153). -/
def Part.sampleTold (s : Part) (c : Context) : Part :=
  if c.flags.notify then
    match s.intake.header with
    | some h => s.report (fun r => r.sampleTold h.threshold h.holdoff s.now)
    | none => s
  else s

/-- The answer of the Result Unit to an instance end: the part, the context, and whether the taken counter was found invalid. -/
structure EndAnswer where
  part : Part
  ctx : Context
  invalid : Bool

/-- Writing a sample into the slot the bank position names (R130, decisions 3 and 4; R134). -/
def Part.writeSample (s : Part) (n : CardIx) (c : Context) (la : LastAttempt) (code : ResultCode) (data : List Byte)
    (overwrites : Bool) : EndAnswer :=
  let s0 := s.report (fun r =>
    { r with mem := r.mem.setClosed (Addr.slot (c.bankFirst + c.position)) (c.sample n la code data).words })
  let c0 :=
    { c with made := c.made + 1#16, position := if c.position + 1 < c.bankCount then c.position + 1 else 0
             lost := if overwrites then c.lost.saturatingAdd 1 else c.lost }
  { part := (s0.writeMadeLost n c0).sampleTold c0, ctx := c0, invalid := false }

/-- The record of an invalid taken counter (R133). -/
def takenInvalidRecord (now : Time) (n : CardIx) (c : Context) (la : LastAttempt) : FaultRecord :=
  { FaultRecord.bare .takenInvalid now with
    result := .takenInvalid, device := some c.device, resolved := some la.device, card := some n, generation := c.generation }

/-- The bank at an instance end (R127, R130 to R133). -/
def Part.resultSample (s : Part) (n : CardIx) (c : Context) (code : ResultCode) (data : List Byte) : EndAnswer :=
  match c.last with
  | none => { part := s, ctx := c, invalid := false }
  | some la =>
    if c.bankCount = 0 then { part := s, ctx := c, invalid := false }
    else
      let fill := (c.made - takenCounter s.rep.mem n).toNat
      if c.bankCount < fill then { part := s.request (takenInvalidRecord s.now n c la), ctx := c, invalid := true }
      else if fill = c.bankCount ∧ !c.flags.keepNewest then
        let c0 := { c with lost := c.lost.saturatingAdd 1 }
        { part := s.writeMadeLost n c0, ctx := c0, invalid := false }
      else s.writeSample n c la code data (fill == c.bankCount)

/-- Counting an instance end in the context (R16, R135, step 4). -/
def Context.counted (c : Context) (failed : Bool) : Context :=
  let c0 := { c with run := c.run + 1#32, failed := if failed then c.failed + 1#32 else c.failed }
  match c.last with
  | none => c0
  | some la =>
    { c0 with retriesTotal := c.retriesTotal.saturatingAdd c.retryTally, yieldsTotal := c.yieldsTotal.saturatingAdd c.yieldTally
              deviceUsed := byteOf la.device.val }

/-- Writing the counters of an instance end, in increasing order of offset (R135, step 4). -/
def Part.writeCounters (s : Part) (n : CardIx) (c : Context) (failed : Bool) : Part :=
  let s0 := if c.last.isSome then s.writeLive n c else s
  let s1 := s0.writeProgressWord n 8 c.run
  let s2 := if failed then s1.writeProgressWord n 16 c.failed else s1
  match c.last with
  | none => s2
  | some la =>
    ((s2.writeProgressWord n 20 (Word.ofHalves c.retriesTotal c.yieldsTotal)).writeProgressWord n 24 la.start).writeProgressWord
      n 28 la.stop

/-- Counting a missed instance (R16, R136). -/
def Context.missOne (c : Context) : Context := { c with missed := c.missed + 1#32 }

/-- Writing instances missed (R136). -/
def Part.writeMissed (s : Part) (n : CardIx) (c : Context) : Part := s.writeProgressWord n 12 c.missed

/-! ### The next instance -/

/-- The count is nonzero and run plus missed has reached it (R57, decision 2). -/
def Context.countUsed (c : Context) : Bool := c.count != 0 && c.run + c.missed == BitVec.ofNat 32 c.count

/-- The result with which a used-up count ends a card (R57, decision 2). -/
def Context.countResult (c : Context) : ResultCode := if c.missed = 0#32 ∧ c.failed = 0#32 then .ok else .okWithGaps

/-- The context serves instance `k` afresh: its marks, tallies and timers are clear (R49, R57).  The resolved device stays that of the
instance before until the first resolution of `k`, with the substituted mark clear (the model's choice, log 40). -/
def Context.serve (c : Context) (k : Word) : Context :=
  { c with k := k, started := false, late := false, catchUpRun := false, fromRetry := false, retryTally := 0, yieldTally := 0
           windowExpiry := none, gapExpiry := none, substituted := false, last := none }

/-- Advancing the next arrival number, with its due time, and arming its arrival unless it has reached a nonzero count (R52, step 1;
R55). -/
def Context.advanceArrival (c : Context) : Context :=
  let j := c.j + 1#32
  { c with j := j, nextArrival := c.nextArrival + c.period
           armed := c.kind == .every && !(c.count != 0 && j == BitVec.ofNat 32 c.count) }

/-- Instance j becomes current, in SLEEPING; its due arrival, if it lies at or before the count, is taken at once (R57, decision 5;
R54). -/
def Part.nextInstance (s : Part) (n : CardIx) (c : Context) (f : Fresh) : Part × Work :=
  (s.setCtx n (some { c.serve c.j with phase := .sleeping }), .settle { f with arrival := true })

/-- The pending end of a context as its end state and result (R62). -/
def PendingEnd.asEnd : PendingEnd → Option (ProgressState × ResultCode)
  | .none => Option.none
  | .withdrawn => Option.some (.withdrawn, .withdrawnByOrder)
  | .debtLimit => Option.some (.failed, .debtLimit)

/-- A card ends, and nothing is left to do for it. -/
def Part.endCardWork (s : Part) (n : CardIx) (c : Context) (state : ProgressState) (result : ResultCode) (f : Fresh) : Part × Work :=
  (s.endCard n c state result, .settle f)

/-- The decision after an instance end that the Result Unit has answered (R53, R57, R133). -/
def Part.afterEnd (s : Part) (n : CardIx) (c : Context) (code : ResultCode) (invalid : Bool) (f : Fresh) : Part × Work :=
  match c.pendingEnd.asEnd with
  | some (state, result) => s.endCardWork n c state result f
  | none =>
    if invalid then s.endCardWork n c .failed .takenInvalid f
    else
      match c.kind with
      | .once => if code = .ok then s.endCardWork n c .ended .ok f else s.endCardWork n c .failed code f
      | .every =>
        if c.countUsed then s.endCardWork n c .ended c.countResult f
        else if code ≠ .ok ∧ c.flags.stopOnError then s.endCardWork n c .failed code f
        else if c.debt ≠ 0 then
          let c0 := { c.serve (c.k + 1#32) with phase := .sleeping, debt := c.debt - 1, catchUpRun := true }
          ((s.writeLive n c0).setCtx n (some c0), .place f)
        else s.nextInstance n c f

/-- An instance end, success (`code` OK) or failure, after its report to the Device Status Unit (R57, R61, R135). -/
def Part.endInstance (s : Part) (n : CardIx) (c : Context) (code : ResultCode) (data : List Byte) (f : Fresh) : Part × Work :=
  let a := s.resultSample n c code data
  let failed := code != .ok
  let c0 := a.ctx.counted failed
  (a.part.writeCounters n c0 failed).afterEnd n c0 code a.invalid f

/-! ### Resolutions -/

/-- The instance becomes WAITING on the ready list of the resolved device's port (R52, step 4; R61). -/
def Context.placed (c : Context) (r : Resolution) (window : Option Time) : Context :=
  { c with phase := .waiting r.port, resolved := r.device, substituted := r.substituted, windowExpiry := window
           gapExpiry := none }

/-- A resolution of the current instance: it joins a ready list with the window given, or ends as a failure with the code of the
resolution (R52, R61, R74). -/
def Part.placeInstance (s : Part) (n : CardIx) (c : Context) (window : Option Time) (f : Fresh) : Part × Work :=
  match s.resolve c.device with
  | .ok r => (s.setCtx n (some (c.placed r window)), .settle f)
  | .error code => s.endInstance n c code [] f

/-! ### Timed events -/

/-- The due arrival of the current instance (R51, R52). -/
def Part.takeArrival (s : Part) (m : PassMode) (n : CardIx) (c : Context) (f : Fresh) : Part × Work :=
  let origin := if m.fromAcceptance then s.now else c.nextArrival
  let window := if c.window = 0 then none else some (origin + BitVec.ofNat 32 c.window)
  s.placeInstance n c.advanceArrival window { f with arrival := true, window := true }

/-- The record of a debt limit (R56). -/
def debtLimitRecord (now : Time) (n : CardIx) (c : Context) : FaultRecord :=
  { FaultRecord.bare .debtLimit now with
    result := .debtLimit, device := some c.device, card := some n, generation := c.generation }

/-- An overtake that finds the debt at its limit (R56). -/
def Part.overtakeAtLimit (s : Part) (n : CardIx) (c : Context) (f : Fresh) : Part × Work :=
  let s0 := s.request (debtLimitRecord s.now n c)
  match c.phase with
  | .running => (s0.setCtx n (some { c with pendingEnd := .debtLimit }), .settle f)
  | .sleeping | .waiting _ | .retryWait => s0.endCardWork n c .failed .debtLimit f

/-- An overtake under CATCH_UP below the limit: the arrived instance is owed (R55, R56). -/
def Part.overtakeOwed (s : Part) (n : CardIx) (c : Context) (f : Fresh) : Part × Work :=
  let c0 := { c.advanceArrival with debt := c.debt + 1 }
  ((s.writeLive n c0).setCtx n (some c0), .settle { f with arrival := true })

/-- Overtaken instances of the card are owed: CATCH_UP acts on EVERY cards alone (R13). -/
def Context.catchesUp (c : Context) : Bool := c.kind == .every && c.flags.catchUp

/-- The current instance is WAITING and not started. -/
def Context.waitsUnstarted (c : Context) : Bool :=
  match c.phase with
  | .waiting _ => !c.started
  | .sleeping | .running | .retryWait => false

/-- The due arrival of instance j while instance k is WAITING, RUNNING or in RETRY_WAIT (R55). -/
def Part.takeOvertake (s : Part) (m : PassMode) (n : CardIx) (c : Context) (f : Fresh) : Part × Work :=
  if c.catchesUp then
    if Config.debtLimit ≤ c.debt then s.overtakeAtLimit n c f else s.overtakeOwed n c f
  else
    let c0 := c.missOne
    let s0 := s.writeMissed n c0
    if c.waitsUnstarted then s0.takeArrival m n (c0.serve c.j) f
    else (s0.setCtx n (some c0.advanceArrival), .settle { f with arrival := true })

/-- The expiry of the window of the current instance (R53, R54). -/
def Part.takeWindow (s : Part) (n : CardIx) (c : Context) (f : Fresh) : Part × Work :=
  if c.catchesUp then
    (s.setCtx n (some { c with late := true, windowExpiry := none }), .settle f)
  else
    let c0 := c.missOne
    let s0 := s.writeMissed n c0
    match c.kind with
    | .once => s0.endCardWork n c0 .failed .late f
    | .every => if c0.countUsed then s0.endCardWork n c0 .ended c0.countResult f else s0.nextInstance n c0 f

/-- The expiry of a retry gap (R61). -/
def Part.takeGap (s : Part) (n : CardIx) (c : Context) (f : Fresh) : Part × Work :=
  s.placeInstance n { c with gapExpiry := none, fromRetry := true } none f

/-- Taking one timed event. -/
def Part.takeEvent (s : Part) (m : PassMode) (n : CardIx) (c : Context) (f : Fresh) : TimedEvent → Part × Work
  | .gap => s.takeGap n c f
  | .arrival => s.takeArrival m n c f
  | .window => s.takeWindow n c f
  | .overtake => s.takeOvertake m n c f

/-! ### Which events are due -/

/-- The event time of each event of a context that is armed and not held back by a pending end (R47, R56). -/
def Context.armedAt (c : Context) : TimedEvent → Option Time
  | .gap => if c.phase = .retryWait then c.gapExpiry else none
  | .arrival => if c.phase = .sleeping ∧ c.armed ∧ c.pendingEnd = .none then some c.nextArrival else none
  | .window => if c.waitsUnstarted then c.windowExpiry else none
  | .overtake => if c.phase ≠ .sleeping ∧ c.armed ∧ c.pendingEnd = .none then some c.nextArrival else none

/-- The event is due: armed, and at or before the time count (R47). -/
def Part.eventDue (s : Part) (c : Context) (e : TimedEvent) : Bool := s.expired (c.armedAt e)

/-- The event may be taken in the work in progress. -/
def Fresh.allows (f : Fresh) : TimedEvent → Bool
  | .gap => f.gap
  | .arrival => f.arrival
  | .window => f.window
  | .overtake => f.arrival

/-- The moment from which event times are ordered: STOPPED's entry at a resume (R68); else far enough back that events at or before
the count stand in order of time. -/
def Part.orderOrigin (s : Part) (m : PassMode) : Time := if m.resume then s.run.stoppedAt else s.now - 0x80000000#32

/-- The time of an event measured from an origin. -/
def Context.eventKey (c : Context) (origin : Time) (e : TimedEvent) : Nat :=
  match c.armedAt e with
  | some t => Time.since t origin
  | none => 0

/-- The first event by time among several; of equal times the first in the list. -/
def firstByKey (key : TimedEvent → Nat) : List TimedEvent → Option TimedEvent
  | [] => none
  | e :: es =>
    match firstByKey key es with
    | none => some e
    | some b => if key e ≤ key b then some e else some b

/-- The next event to take of a card, in the order of R68: by time, and at one time gap expiry, due arrival of the current
instance, window expiry, overtake.  In STOPPED events are held (R67). -/
def Part.nextEvent (s : Part) (m : PassMode) (c : Context) (f : Fresh) : Option TimedEvent :=
  if !s.takesEvents then none
  else
    firstByKey (c.eventKey (s.orderOrigin m))
      ([TimedEvent.gap, .arrival, .window, .overtake].filter (fun e => f.allows e && s.eventDue c e))

/-! ### The work of a step -/

/-- One piece of the work left for a card; none when nothing is left. -/
def Part.workOnce (s : Part) (m : PassMode) (n : CardIx) (w : Work) : Option (Part × Work) :=
  match s.ctx n with
  | none => none
  | some c =>
    match w with
    | .place f => some (s.placeInstance n c none f)
    | .settle f =>
      match s.nextEvent m c f with
      | none => none
      | some e => some (s.takeEvent m n c f e)

/-- The work left for a card, piece after piece, at most `fuel` pieces (log 20). -/
def workFor : Nat → PassMode → CardIx → Part × Work → Part
  | 0, _, _, (s, _) => s
  | fuel + 1, m, n, (s, w) =>
    match s.workOnce m n w with
    | none => s
    | some next => workFor fuel m n next

/-- All the work left for a card. -/
def Part.finish (m : PassMode) (n : CardIx) (p : Part × Work) : Part := workFor Config.passBound m n p

/-- A timed event that comes by its own command: taken if it is due, in a run state that takes events (R47, R67). -/
def Part.timedCommand (s : Part) (n : CardIx) (e : TimedEvent) : Part :=
  match s.ctx n with
  | none => s
  | some c =>
    if s.takesEvents && s.eventDue c e then Part.finish .plain n (s.takeEvent .plain n c .none e) else s

/-- The due arrival of a card: of its current instance in SLEEPING, of a later one else (R52, R55). -/
def Part.dueArrival (s : Part) (n : CardIx) : Part :=
  match s.ctx n with
  | none => s
  | some c => s.timedCommand n (if c.phase = .sleeping then .arrival else .overtake)

/-! ### Re-resolution of waiting instances -/

/-- A WAITING instance is resolved again: it stays or moves with its marks and its window, or ends as a failure (R74, R79). -/
def Part.reresolve (s : Part) (n : CardIx) : Part :=
  match s.ctx n with
  | none => s
  | some c =>
    match s.resolve c.device with
    | .ok r => s.setCtx n (some (c.placed r c.windowExpiry))
    | .error code => Part.finish .plain n (s.endInstance n c code [] .none)

/-- The card's instance is WAITING. -/
def Context.isWaiting (c : Context) : Bool :=
  match c.phase with
  | .waiting _ => true
  | .sleeping | .running | .retryWait => false

/-- Re-resolving, in card order, every WAITING instance whose context satisfies `p` (log 18). -/
def Part.reresolveWhere (s : Part) (p : Context → Bool) : Part :=
  (allCards.filter (fun n => match s.ctx n with | some c => c.isWaiting && p c | none => false)).foldl Part.reresolve s

/-- Every instance on the ready list of a port ends as a failure with PORT_FENCED, in card order (R65, R106, R121; log 18). -/
def Part.failReadyList (s : Part) (p : PortIx) : Part :=
  (s.readyCards p).foldl
    (fun s n =>
      match s.ctx n with
      | none => s
      | some c => Part.finish .plain n (s.endInstance n c .portFenced [] .none))
    s

end Sys2Proof.Machine
end

