-- ==== Sys2Proof/Machine/Outcomes.lean ====
section
/-! DEFINITION. What becomes of an attempt's outcome: its class, its record, the health of its device with fences and automatic
substitution, and the end, retry or return of its instance (R60, R64, R75 to R81, R104, R105, R123). -/

namespace Sys2Proof.Machine

/-! ### Outcomes and their classes -/

/-- The outcomes of an attempt (Table 3-3); a stretch timeout says whether its recovery fenced the port. -/
inductive AttemptOutcome
  | done (data : List Byte)
  | addressNack | dataNack | busError
  | stretchTimeout (portFenced : Bool)
  | checkMismatch | arbLost | contention
  deriving DecidableEq, Repr

/-- The classes of Table 3-3, with the code of an instance that fails on the outcome. -/
inductive OutcomeClass
  | success
  | retryable (code : ResultCode)
  | final (code : ResultCode)
  | yields
  deriving DecidableEq, Repr

/-- Table 3-3. -/
def AttemptOutcome.class : AttemptOutcome → OutcomeClass
  | .done _ => .success
  | .addressNack => .retryable .noAck
  | .dataNack => .final .dataRefused
  | .busError => .retryable .busFault
  | .stretchTimeout false => .retryable .busFault
  | .stretchTimeout true => .final .portFenced
  | .checkMismatch => .retryable .checkFailed
  | .arbLost => .yields
  | .contention => .yields

/-- The kind of the record of an attempt error (R105, R123). -/
def AttemptOutcome.recordKind : AttemptOutcome → Option FaultKind
  | .done _ => none
  | .addressNack => some .addressNack
  | .dataNack => some .dataNack
  | .busError => some .busError
  | .stretchTimeout _ => some .stretchTimeout
  | .checkMismatch => some .checkMismatch
  | .arbLost => some .arbLost
  | .contention => some .contention

/-- What the Schedule Unit makes of an outcome (R60, R64). -/
inductive Verdict
  | succeed
  | retry
  | yieldAgain
  | fail (code : ResultCode)
  | abandon
  deriving DecidableEq, Repr

/-- The verdict on an outcome, by its class, the tallies and the pending end (R60, R64). -/
def Context.verdict (c : Context) (retryLimit : Nat) (o : AttemptOutcome) : Verdict :=
  match o.class with
  | .success => .succeed
  | .retryable code =>
    if c.pendingEnd ≠ .none then .abandon else if c.retryTally < retryLimit then .retry else .fail code
  | .final code => if c.pendingEnd ≠ .none then .abandon else .fail code
  | .yields =>
    if c.pendingEnd ≠ .none then .abandon
    else if c.yieldTally + 1 < Config.yieldLimit then .yieldAgain else .fail .yieldLimit

/-- The disposition an attempt error's record carries (R105, R143). -/
def Verdict.disposition : Verdict → Disposition
  | .succeed => .none
  | .retry => .retried
  | .yieldAgain => .yielded
  | .fail _ => .ending
  | .abandon => .ending

/-- The result code an attempt error's record carries: that of an ended instance (R105). -/
def Verdict.result : Verdict → ResultCode
  | .fail code => code
  | .succeed | .retry | .yieldAgain | .abandon => .none

/-- The point of an attempt at which an error came, as its record shows it (R105, R123). -/
structure BusPoint where
  phase : RecordPhase
  leg : Byte
  byteIndex : Byte
  lastAddress : Byte
  lastByte : Byte
  levels : Byte
  deriving DecidableEq, Repr

/-- The point a success hands on: none. -/
def BusPoint.absent : BusPoint :=
  { phase := .none, leg := 0#8, byteIndex := 0#8, lastAddress := 0#8, lastByte := 0#8, levels := 0#8 }

/-- The record of an attempt error (R105, R123, Table 8-2). -/
def attemptRecord (kind : FaultKind) (v : Verdict) (port : PortIx) (a : Attempt) (c : Context) (stop : Time) (p : BusPoint) :
    FaultRecord :=
  { time := stop, kind := kind, disposition := v.disposition, result := v.result, port := some port, device := some c.device
    resolved := some a.device, card := some a.card, generation := c.generation, attempt := a.number, phase := p.phase
    leg := p.leg, byteIndex := p.byteIndex, lastAddress := p.lastAddress, lastByte := p.lastByte, levels := p.levels }

/-! ### The Device Status Unit at a failure -/

/-- The record of a fenced device (R77, Table 8-2; log 25). -/
def deviceFencedRecord (now : Time) (a : Attempt) (generation : Byte) (code : ResultCode) : FaultRecord :=
  { FaultRecord.bare .deviceFenced now with
    result := code, port := some a.entry.portIx, device := some a.device, card := some a.card, generation := generation }

/-- The records of automatic substitution (R78, Table 8-2). -/
def substRecord (kind : FaultKind) (now : Time) (d standby : DevIx) (card : CardIx) (generation : Byte) : FaultRecord :=
  { FaultRecord.bare kind now with
    result := if kind = .substFull then .substFull else .none
    device := some d, resolved := some standby, card := some card, generation := generation }

/-- What automatic substitution decides at a fence of `d` (R78). -/
inductive SubstDecision
  | nothing
  | enter (standby : DevIx)
  | full (standby : DevIx)
  deriving DecidableEq, Repr

/-- Automatic substitution (R78): an entry of the map is kept; else the standby field is consulted, unless the device's entry is not
PRESENT and so is not examined further (R70). -/
def Part.substDecision (s : Part) (d : DevIx) : SubstDecision :=
  if (s.dev.standbyOf d).isSome then .nothing
  else if !(readEntry s.rep.mem d).present then .nothing
  else
    match devIx? (readEntry s.rep.mem d).standby with
    | none => .nothing
    | some b =>
      if b = d ∨ !s.usableStandby b then .nothing
      else if s.dev.subst.length < Config.substEntries then .enter b
      else .full b

/-- The map as automatic substitution leaves it. -/
def SubstDecision.applyTo (x : SubstDecision) (u : DeviceUnit) (d : DevIx) : DeviceUnit :=
  match x with
  | .enter b => u.enter d b
  | .nothing | .full _ => u

/-- The record automatic substitution asks for. -/
def SubstDecision.record (x : SubstDecision) (now : Time) (d : DevIx) (card : CardIx) (generation : Byte) : Option FaultRecord :=
  match x with
  | .nothing => none
  | .enter b => some (substRecord .substitutionMade now d b card generation)
  | .full b => some (substRecord .substFull now d b card generation)

/-- Asking for a record if there is one. -/
def Part.requestIf (s : Part) (f : Option FaultRecord) : Part :=
  match f with
  | none => s
  | some f => s.request f

/-- A fence of the attempt's device `d`, its new count in `r`, as one event (R77 to R79). -/
def Part.fenceDevice (s : Part) (a : Attempt) (generation : Byte) (code : ResultCode) (r : DeviceRecord) : Part :=
  let d := a.device
  let x := s.substDecision d
  let s0 := s.request (deviceFencedRecord s.now a generation code)
  let s1 := s0.requestIf (x.record s.now d a.card generation)
  let s2 := s1.changeDevice (x.applyTo (s.dev.put d { r with health := .fenced }) d) d
  s2.reresolveWhere (fun c => c.resolved == d)

/-- An instance ended as a failure on the attempt's device (R75). -/
def Part.deviceFailed (s : Part) (a : Attempt) (generation : Byte) (code : ResultCode) : Part :=
  let r := s.dev.get a.device
  let r0 := { r with faults := min 15 (r.faults + 1) }
  if r.health = .fenced then s.changeDevice (s.dev.put a.device r0) a.device
  else if a.entry.threshold ≠ 0 ∧ a.entry.threshold ≤ r0.faults then s.fenceDevice a generation code r0
  else s.changeDevice (s.dev.put a.device { r0 with health := .suspect }) a.device

/-! ### Handing an outcome on -/

/-- What is kept of an attempt that has ended (R61, R129). -/
def Part.lastOf (s : Part) (a : Attempt) (stop : Time) : LastAttempt :=
  { start := a.start.getD stop, stop := stop, device := a.device, substituted := a.substituted
    fallback := a.fallback || s.time.source == .fallback }

/-- The read data an outcome hands on: that of DONE alone (R11). -/
def AttemptOutcome.data : AttemptOutcome → List Byte
  | .done data => data
  | .addressNack | .dataNack | .busError | .stretchTimeout _ | .checkMismatch | .arbLost | .contention => []

/-- The Schedule Unit acts on an outcome (R60, R61, R64). -/
def Part.actOn (s : Part) (a : Attempt) (c : Context) (stop : Time) (data : List Byte) : Verdict → Part × Work
  | .succeed =>
    (s.deviceSucceeded a.device c.flags.setting a.entry.guardTime stop).endInstance a.card c .ok data .none
  | .fail code => (s.deviceFailed a c.generation code).endInstance a.card c code [] .none
  | .retry =>
    (s.setCtx a.card
      (some { c with phase := .retryWait, gapExpiry := some (stop + BitVec.ofNat 32 (10 * a.entry.retryGap)) }),
     .settle { Fresh.none with gap := true })
  | .yieldAgain => s.placeInstance a.card c none .none
  | .abandon =>
    match c.pendingEnd.asEnd with
    | some (state, result) => s.endCardWork a.card c state result .none
    | none => (s, .settle .none)

/-- The context as an outcome leaves it: the last attempt kept, and a yield counted (R60). -/
def Part.afterAttempt (s : Part) (c : Context) (a : Attempt) (o : AttemptOutcome) (stop : Time) : Context :=
  let c0 := { c with last := some (s.lastOf a stop) }
  if o.class = .yields ∧ c.pendingEnd = .none then { c0 with yieldTally := c.yieldTally + 1 } else c0

/-- An attempt has ended on a port that has taken up its new state: its record, its effects, and the entry into STOPPED if it was
the last (R60, R104, R105, R123, R173; log 30). -/
def Part.attemptEnded (s : Part) (port : PortIx) (a : Attempt) (o : AttemptOutcome) (stop : Time) (p : BusPoint) : Part :=
  match s.ctx a.card with
  | none => s.tryStop
  | some c =>
    let v := c.verdict a.entry.retryLimit o
    let s0 := s.requestIf (o.recordKind.map (fun kind => attemptRecord kind v port a c stop p))
    (Part.finish .plain a.card (s0.actOn a (s.afterAttempt c a o stop) stop o.data v)).tryStop

end Sys2Proof.Machine
end

