-- ==== Sys2Proof/Machine/Bus.lean ====
section
/-! DEFINITION. What crosses a bus in an attempt: the bytes of its legs in order with their positions, what has crossed up to a
position, and the last address byte and last byte seen there (R91 to R95, R105, R112 to R117, R123). -/

namespace Sys2Proof.Machine

/-! ### The bytes of an attempt -/

/-- A byte of an attempt: an address byte, a byte the part sends, a byte it receives (and whether it acknowledges it), or the check
byte it receives. -/
inductive SlotKind
  | address (b : Byte)
  | out (b : Byte)
  | read (ack : Bool)
  | readCheck
  deriving DecidableEq, Repr

/-- A byte of an attempt with its position. -/
structure Slot where
  pos : BusPos
  leg : Nat
  kind : SlotKind
  deriving DecidableEq, Repr

/-- The first or third byte of a 10-bit address: 11110, address bits 9 and 8, and the direction (Table 5-3). -/
def tenBitHead (address : Nat) (isRead : Bool) : Byte :=
  byteOf (0xF0 + 2 * (address / 256 % 4) + (if isRead then 1 else 0))

/-- The address bytes of one leg (Table 5-3). -/
def addressBytes (e : DeviceEntry) (op : LegOp) : List Byte :=
  match e.tenBit, op with
  | false, .write => [byteOf (2 * e.address)]
  | false, .read => [byteOf (2 * e.address + 1)]
  | true, .write => [tenBitHead e.address false, byteOf (e.address % 256)]
  | true, .read => [tenBitHead e.address false, byteOf (e.address % 256), tenBitHead e.address true]

/-- The data bytes a WRITE leg sends (R92, R114). -/
def Context.legData (c : Context) (leg : Leg) : List Byte := (c.inline.drop leg.offset).take leg.length

/-- The data and check bytes of one leg (R92 to R94, R114, R115). -/
def Context.dataSlots (c : Context) (check : Bool) (leg : Leg) (l : Nat) : List Slot :=
  match leg.op with
  | .write =>
    let bytes := c.legData leg
    (if check then bytes ++ [crc8 bytes] else bytes).zipIdx.map (fun b =>
      { pos := .data l b.2, leg := l, kind := .out b.1 })
  | .read =>
    (List.range leg.length).map (fun i =>
      { pos := .data l i, leg := l, kind := .read (check || decide (i + 1 < leg.length)) }) ++
    (if check then [{ pos := .data l leg.length, leg := l, kind := .readCheck }] else [])

/-- The bytes of a two-wire leg. -/
def Context.twoLegSlots (c : Context) (e : DeviceEntry) (leg : Leg) (l : Nat) : List Slot :=
  (addressBytes e leg.op).zipIdx.map (fun b => { pos := .address l b.2, leg := l, kind := .address b.1 }) ++
    c.dataSlots e.check leg l

/-- The bytes of a two-wire attempt in order (R91 to R95). -/
def Context.twoSlots (c : Context) (e : DeviceEntry) : List Slot := c.legs.zipIdx.flatMap (fun x => c.twoLegSlots e x.1 x.2)

/-- The bytes of a four-wire attempt in order (R112, R114, R115). -/
def Context.fourSlots (c : Context) (e : DeviceEntry) : List Slot := c.legs.zipIdx.flatMap (fun x => c.dataSlots e.check x.1 x.2)

/-- A data byte received. -/
def Slot.isRead (s : Slot) : Bool :=
  match s.kind with
  | .read _ => true
  | .address _ | .out _ | .readCheck => false

/-- How many data bytes are received in a run of bytes. -/
def readCount (ss : List Slot) : Nat := ss.countP Slot.isRead

/-- A byte that has crossed the bus. -/
structure Crossed where
  slot : Slot
  byte : Byte
  deriving DecidableEq, Repr

/-- The bytes that crossed, the received ones from `rx` in order; a check byte that was received matched the leg's data bytes,
which `acc` collects (R93, R94). -/
def crossed : List Slot → List Byte → List Byte → List Crossed
  | [], _, _ => []
  | s :: ss, rx, acc =>
    match s.kind with
    | .address b => { slot := s, byte := b } :: crossed ss rx []
    | .out b => { slot := s, byte := b } :: crossed ss rx []
    | .readCheck => { slot := s, byte := crc8 acc } :: crossed ss rx []
    | .read _ =>
      match rx with
      | [] => { slot := s, byte := 0#8 } :: crossed ss [] acc
      | b :: rest => { slot := s, byte := b } :: crossed ss rest (acc ++ [b])

/-- The last byte that crossed, 0 when none did (R105, R123). -/
def lastByte (cs : List Crossed) : Byte :=
  match cs.getLast? with
  | some c => c.byte
  | none => 0#8

/-- The byte of an address slot. -/
def Slot.addressByte (s : Slot) : Option Byte :=
  match s.kind with
  | .address b => some b
  | .out _ | .read _ | .readCheck => none

/-- The last address byte that crossed, 0 when none did (R91, R105). -/
def lastAddress (ss : List Slot) : Byte := ((ss.filterMap Slot.addressByte).getLast?).getD 0#8

/-! ### Positions -/

/-- The bytes wholly before a position, and the byte at it, if the position lies in a byte or follows its eight bits. -/
structure Before where
  complete : List Slot
  current : Option Slot
  /-- The eight bits of the byte have crossed: the position is its ninth bit, or the stop after it was refused or wrong. -/
  whole : Bool
  deriving DecidableEq, Repr

/-- The byte whose bits stand at `at'`, with the bytes before it. -/
def locateByte (ss : List Slot) (at' : BusPos) (whole : Bool) : Option Before :=
  (ss.find? (fun s => s.pos == at')).map (fun s =>
    { complete := ss.takeWhile (fun x => x.pos != at'), current := some s, whole := whole })

/-- A byte whose ninth bit can end the attempt with a stop: one that is sent, or a check byte that is received (R97, R98). -/
def Slot.endsByStop (s : Slot) : Bool :=
  match s.kind with
  | .address _ | .out _ | .readCheck => true
  | .read _ => false

/-- Finding a position among the bytes of an attempt of `legs` legs; none when the attempt has no such position. -/
def locate (ss : List Slot) (legs : Nat) : BusPos → Option Before
  | .start => some { complete := [], current := none, whole := false }
  | .address l i => locateByte ss (.address l i) false
  | .addressAck l i => locateByte ss (.address l i) true
  | .readdress l => (locateByte ss (.address l 2) false).map (fun b => { b with current := none })
  | .data l i => locateByte ss (.data l i) false
  | .dataAck l i => locateByte ss (.data l i) true
  | .turn l =>
    if l + 1 < legs then some { complete := ss.filter (fun s => decide (s.leg ≤ l)), current := none, whole := false } else none
  | .stop => some { complete := ss, current := none, whole := false }
  | .stopAfterAddress l i => locateByte ss (.address l i) true
  | .stopAfterData l i => (locateByte ss (.data l i) true).filter (fun b => b.current.any Slot.endsByStop)

/-- A byte that the part receives: a data byte of a READ leg or its check byte. -/
def Slot.isReceived (s : Slot) : Bool :=
  match s.kind with
  | .read _ | .readCheck => true
  | .address _ | .out _ => false

/-- How many received bytes a position comes with: the data bytes before it, and the byte at it once its bits have crossed. -/
def Before.receivedCount (b : Before) : Nat :=
  readCount b.complete + (if b.whole && b.current.any Slot.isReceived then 1 else 0)

/-- The position with the bytes received: none when their number does not fit. -/
def locateWith (ss : List Slot) (legs : Nat) (pos : BusPos) (rx : List Byte) : Option Before :=
  match locate ss legs pos with
  | none => none
  | some b => if rx.length = b.receivedCount then some b else none

/-- The phase, leg index and byte index of a record at a position of an attempt of `legs` legs (R105; log 16). -/
def recordPosition (legs : Nat) : BusPos → RecordPhase × Byte × Byte
  | .start => (.start, 0#8, 0#8)
  | .address l i | .addressAck l i => (.address, byteOf l, byteOf i)
  | .readdress l => (.address, byteOf l, byteOf Config.readdressByteIndex.val)
  | .data l i | .dataAck l i => (.data, byteOf l, byteOf i)
  | .turn l => (.turn, byteOf (Config.turnLegIndex l).val, byteOf (Config.turnByteIndex l).val)
  | .stop => (.stop, byteOf (Config.stopLegIndex (legs - 1) none).val, byteOf (Config.stopByteIndex (legs - 1) none).val)
  | .stopAfterAddress l i | .stopAfterData l i =>
    (.stop, byteOf (Config.stopLegIndex l (some i)).val, byteOf (Config.stopByteIndex l (some i)).val)

/-- The last address byte at a position; one that was cut short counts as the open constant says (log 15), and one whose eight bits have
crossed was sent (R91). -/
def Before.lastAddress (b : Before) : Byte :=
  match b.current.bind Slot.addressByte with
  | some byte => if b.whole || Config.cutAddressByteCounts then byte else Machine.lastAddress b.complete
  | none => Machine.lastAddress b.complete

/-- The byte of a slot whose eight bits have crossed, the last of `rx` where it was received (R92, R93). -/
def Slot.crossedByte (s : Slot) (rx : List Byte) : Byte :=
  match s.kind with
  | .address b | .out b => b
  | .read _ | .readCheck => rx.getLastD 0#8

/-- The last byte seen at a position: the byte at it once its eight bits have crossed, else the last byte before it (R92, R93, R105;
log 15). -/
def Before.lastByte (b : Before) (rx : List Byte) : Byte :=
  match b.current with
  | some cur => if b.whole then cur.crossedByte rx else Machine.lastByte (crossed b.complete rx [])
  | none => Machine.lastByte (crossed b.complete rx [])

/-! ### Traces -/

/-- A byte as it stands in the trace of a two-wire bus, with a repeated start before the first address byte of a later leg and before
the third of a 10-bit READ leg (R91, R95). -/
def Crossed.twoItems (x : Crossed) : List BusItem :=
  match x.slot.kind with
  | .address b =>
    if x.slot.pos = .address x.slot.leg 2 ∨ (x.slot.pos = .address x.slot.leg 0 ∧ x.slot.leg ≠ 0) then
      [.repeatedStart, .address b true]
    else [.address b true]
  | .out b => [.sent b true]
  | .read ack => [.received x.byte ack]
  | .readCheck => [.received x.byte false]

/-- The trace of a two-wire attempt up to a run of whole bytes. -/
def twoTrace (cs : List Crossed) : List BusItem := .start :: cs.flatMap Crossed.twoItems

/-! ### The clock and data lines of a four-wire attempt (R112, R113, Table 6-2) -/

/-- A clock mode: its idle level, and whether both parties sample on the first edge of a bit; the other edge changes the data. -/
structure ClockMode where
  idleHigh : Bool
  samplesFirst : Bool
  deriving DecidableEq, Repr

/-- Table 6-2. -/
def clockMode (mode : Nat) : ClockMode :=
  match mode with
  | 0 => { idleHigh := false, samplesFirst := true }
  | 1 => { idleHigh := false, samplesFirst := false }
  | 2 => { idleHigh := true, samplesFirst := true }
  | _ => { idleHigh := true, samplesFirst := false }

/-- The bits of a byte, most significant first (R112). -/
def byteBits (b : Byte) : List Bool := (List.range 8).map (fun i => b.getLsbD (7 - i))

/-- The byte that bits sampled in order make, most significant first (R112). -/
def bitsByte (bits : List Bool) : Byte := bits.foldl (fun b x => (b <<< 1) ||| (if x then 1#8 else 0#8)) 0#8

/-- An edge of the clock: the level it leads to, the bit that the part presents on data out at it, and whether both data lines are
sampled at it. -/
structure ClockEdge where
  high : Bool
  presents : Option Bool
  samples : Bool
  deriving DecidableEq, Repr

/-- The two edges of a bit with the bit after it: the first leaves the idle level and the second returns to it (R112). -/
def ClockMode.bitEdges (m : ClockMode) (bit : Bool) (next : Option Bool) : List ClockEdge :=
  if m.samplesFirst then
    [{ high := !m.idleHigh, presents := none, samples := true }, { high := m.idleHigh, presents := next, samples := false }]
  else
    [{ high := !m.idleHigh, presents := some bit, samples := false }, { high := m.idleHigh, presents := none, samples := true }]

/-- The edges of a run of bits, each bit time following the last without a gap (R112). -/
def ClockMode.edges (m : ClockMode) : List Bool → List ClockEdge
  | [] => []
  | bit :: rest => m.bitEdges bit rest.head? ++ m.edges rest

/-- The byte shifted out for a byte of the attempt: in a READ leg the fill byte (R114, R115). -/
def Slot.shiftedOut (fill : Byte) (s : Slot) : Byte :=
  match s.kind with
  | .address b | .out b => b
  | .read _ | .readCheck => fill

/-- The bits that an attempt shifts out, from the first bit of leg 0 to the last bit of the last leg (R112). -/
def outBits (e : DeviceEntry) (ss : List Slot) : List Bool := ss.flatMap (fun s => byteBits (s.shiftedOut e.fill))

/-- The clock edges of an attempt from the first edge of phase DATA on (R112, R113). -/
def attemptEdges (e : DeviceEntry) (ss : List Slot) : List ClockEdge := (clockMode e.mode).edges (outBits e ss)

/-- The first bit of an attempt where the mode presents it before the first edge: modes 0 and 2 (R113, Table 6-2). -/
def presentedFirst (e : DeviceEntry) (ss : List Slot) : Option Bool :=
  if (clockMode e.mode).samplesFirst then (outBits e ss).head? else none

/-- The bit time in ns: the clock is 50 MHz divided by the divider plus 1 (R112). -/
def DeviceEntry.bitTime (e : DeviceEntry) : Nat := (e.speed + 1) * 20

/-- What the part drives in phase SELECT before the select: the clock at its idle level, and in modes 0 and 2 the first bit (R113). -/
def fourLead (e : DeviceEntry) (ss : List Slot) : List BusItem :=
  .clockIdle (clockMode e.mode).idleHigh :: ((presentedFirst e ss).map BusItem.dataOut).toList

/-- A byte as it stands in the trace of a four-wire bus, where reads shift out the fill byte (R114, R115). -/
def Crossed.fourItem (fill : Byte) (x : Crossed) : BusItem :=
  .shifted (x.slot.shiftedOut fill) (if x.slot.isReceived then some x.byte else none)

/-- The trace of a four-wire attempt up to a run of whole bytes. -/
def fourTrace (e : DeviceEntry) (ss : List Slot) (cs : List Crossed) : List BusItem :=
  fourLead e ss ++ .select e.address :: cs.map (Crossed.fourItem e.fill)

/-- The levels byte of a two-wire port: bit 0 clock, bit 1 data (Table 12-13). -/
def twoLevels (levels : BitVec 2) : Byte := levels.setWidth 8

/-- The levels byte of a four-wire port: clock, data out, data in, and SENSE as bit 3 (Table 12-13).  The spec gives no polarity of SENSE:
the model writes an asserted SENSE as 1, the high level (the model's choice, log 41). -/
def fourLevels (levels : BitVec 3) (sense : Bool) : Byte := levels.setWidth 8 ||| flagBit sense 3

end Sys2Proof.Machine
end

