-- ==== Sys2Proof/Machine/Ports.lean ====
section
/-! DEFINITION. The port arbiters and the Port Engines: the choice of an instance, the conditions a bus monitor reports, the course
and the ends of attempts, and the fences of hold timers (R58, R59, R87 to R106, R111 to R123). -/

namespace Sys2Proof.Machine

/-! ### The arbiter's choice -/

/-- A two-wire port, and a four-wire port. -/
def Part.twoAt (s : Part) (p : TwoIx) : TwoWire := s.two[p]
def Part.fourAt (s : Part) (q : FourIx) : FourWire := s.four[q]

/-- The port is IDLE, with nothing on its bus to make it wait (R59, R89, R118). -/
def Part.portIdle (s : Part) (p : PortIx) : Bool :=
  if h : p.val < 2 then
    let t := s.twoAt ⟨p.val, h⟩
    t.state == .idle && !t.viewBusy
  else
    let t := s.fourAt ⟨p.val - 2, by omega⟩
    t.state == .idle && !t.sense

/-- The age of a card's current instance (R58). -/
def Part.age (s : Part) (c : Context) : Nat := Time.since s.now (c.dueTime c.k)

/-- An eligible instance on a ready list, with its card. -/
structure Candidate where
  card : CardIx
  ctx : Context

/-- `a` stands before `b`, whose card index is higher: by priority, then age, then card index (R58). -/
def Part.precedes (s : Part) (a b : Candidate) : Bool :=
  decide (a.ctx.priority < b.ctx.priority) || (a.ctx.priority == b.ctx.priority && decide (s.age b.ctx ≤ s.age a.ctx))

/-- The first by the arbiter's criteria, of candidates in rising order of card index. -/
def Part.best (s : Part) : List Candidate → Option Candidate
  | [] => none
  | a :: rest =>
    match s.best rest with
    | none => some a
    | some b => if s.precedes a b then some a else some b

/-- The eligible instances of a port's list, in rising order of card index (R58, R82). -/
def Part.candidates (s : Part) (p : PortIx) : List Candidate :=
  (s.readyCards p).filterMap (fun n =>
    match s.ctx n with
    | none => none
    | some c => if s.underGuard c.resolved then none else some { card := n, ctx := c })

/-- The context of an instance that becomes RUNNING (R59). -/
def Context.begun (c : Context) (r : Resolution) : Context :=
  { c with phase := .running, started := true, windowExpiry := none, fromRetry := false
           retryTally := if c.fromRetry then c.retryTally + 1 else c.retryTally
           resolved := r.device, substituted := r.substituted, active := true }

/-- The attempt a choice begins, with the entry copy of its resolution (R59, R72, R105). -/
def Part.newAttempt (s : Part) (n : CardIx) (c : Context) (r : Resolution) : Attempt :=
  { card := n, device := r.device, substituted := r.substituted, entry := r.entry, chosenAt := s.now, start := none
    fallback := false, number := 1 + c.retryTally + c.yieldTally }

/-- The port becomes ACTIVE: in phase START, or in phase SELECT with the clock at its idle level, the first bit presented where the mode
asks for it, and the select not yet asserted (R90, R113). -/
def Part.activate (s : Part) (p : PortIx) (a : Attempt) (c : Context) : Part :=
  if h : p.val < 2 then
    let t := s.twoAt ⟨p.val, h⟩
    s.setTwo ⟨p.val, h⟩ { t with state := .active .start a, wire := [] }
  else
    let t := s.fourAt ⟨p.val - 2, by omega⟩
    s.setFour ⟨p.val - 2, by omega⟩ { t with state := .active (.select false) a, wire := fourLead a.entry (c.fourSlots a.entry) }

/-- A chosen instance begins its attempt; at the first of the posting the progress word becomes ACTIVE (R59, R136). -/
def Part.beginAttempt (s : Part) (p : PortIx) (n : CardIx) (c : Context) (r : Resolution) : Part :=
  let c0 := c.begun r
  let s0 := if c.active then s else s.writeLive n c0
  (s0.setCtx n (some c0)).activate p (s.newAttempt n c0 r) c0

/-- A choice is carried out (R59, steps 1 to 5). -/
def Part.carryOutChoice (s : Part) (p : PortIx) (x : Candidate) : Part :=
  match s.resolve x.ctx.device with
  | .error code => Part.finish .plain x.card (s.endInstance x.card x.ctx code [] .none)
  | .ok r =>
    if r.port ≠ p ∨ s.underGuard r.device then s.setCtx x.card (some (x.ctx.placed r x.ctx.windowExpiry))
    else s.beginAttempt p x.card x.ctx r

/-- One choice of a port's arbiter, in RUNNING and on an IDLE port (R59). -/
def Part.arbiterChoice (s : Part) (p : PortIx) : Part :=
  if s.run.state == .running && s.portIdle p then
    match s.best (s.candidates p) with
    | none => s
    | some x => s.carryOutChoice p x
  else s

/-! ### Two-wire: the bus monitor -/

/-- The bus-free interval of a speed code, in us (Table 5-2). -/
def busFreeInterval (speed : Nat) : Nat :=
  match speed with
  | 0 => 5
  | 1 => 2
  | _ => 1

/-- The attempt of a port in phase START whose start has not been driven. -/
def TwoWire.pendingStart (t : TwoWire) : Option Attempt :=
  match t.state with
  | .active .start a => if a.start.isNone then some a else none
  | _ => none

/-- The attempt of a port whose start has been driven. -/
def TwoWire.startedAttempt (t : TwoWire) : Option Attempt :=
  match t.state with
  | .active _ a => if a.start.isSome then some a else none
  | _ => none

/-- The interval is the one that began at `since`, and has lasted `ns` on the bus clocks (R177; log 12). -/
def measureReaches (m : Measure) (since : Time) (ns : Nat) : Bool := m.since == since && decide (ns ≤ m.ns)

/-- The part drives its start condition once the bus-free interval has passed with the view FREE (R90). -/
def Part.driveStart (s : Part) (p : TwoIx) (free : Measure) : Part :=
  let t := s.twoAt p
  match t.pendingStart with
  | none => s
  | some a =>
    if !t.viewBusy && measureReaches free t.lastStop (1000 * busFreeInterval a.entry.speed) then
      s.setTwo p
        { t with state := .active .address { a with start := some s.now, fallback := s.time.source == .fallback }
                 viewBusy := true, measureFrom := s.now, wire := [.start] }
    else s

/-- The port is left as a lost arbitration leaves it: lines released, HELD, view BUSY (R99, R100). -/
def Part.twoLost (s : Part) (t : TwoWire) (wire : List BusItem) : TwoWire :=
  s.twoIdle { t with viewBusy := true, measureFrom := s.now, wire := wire }

/-- The start is found taken: an arbitration loss in phase START, start and end stamp both now (R90, R99). -/
def Part.loseStart (s : Part) (p : TwoIx) (a : Attempt) (levels : BitVec 2) : Part :=
  let t := s.twoAt p
  (s.setTwo p (s.twoLost t [])).attemptEnded (twoPort p) { a with start := some s.now } .arbLost s.now
    { BusPoint.absent with phase := .start, levels := twoLevels levels }

/-- A start condition the part did not drive (R88 to R90). -/
def Part.startSeen (s : Part) (p : TwoIx) : Part :=
  let t := s.twoAt p
  match t.pendingStart with
  | some a => s.loseStart p a 0b01#2
  | none =>
    let t0 := { t with viewBusy := true, measureFrom := s.now }
    match t.state with
    | .idle => s.setTwo p (s.twoIdle t0)
    | .held | .active _ _ | .recovering _ | .fenced => s.setTwo p t0

/-- The view becomes FREE; a HELD port stops its hold timer and enters IDLE (R89). -/
def TwoWire.freed (t : TwoWire) : TwoWire :=
  match t.state with
  | .held => { t with viewBusy := false, state := .idle, holdTimer := none }
  | .idle | .active _ _ | .recovering _ | .fenced => { t with viewBusy := false }

/-- A stop condition the part did not drive (R88, R89). -/
def Part.stopSeen (s : Part) (p : TwoIx) : Part :=
  s.setTwo p ({ s.twoAt p with lastStop := s.now } : TwoWire).freed

/-- The part is driving the lines of a two-wire port, or about to. -/
def TwoWire.drives (t : TwoWire) : Bool :=
  match t.state with
  | .active _ _ | .recovering _ => true
  | .idle | .held | .fenced => false

/-- Both lines have been high for 100 us with the view BUSY (R88). -/
def Part.busFree (s : Part) (p : TwoIx) (high : Measure) : Part :=
  let t := s.twoAt p
  if t.viewBusy && !t.drives && measureReaches high t.measureFrom 100000 then s.setTwo p t.freed else s

/-- A fall of either line begins the 100 us measure afresh (R88). -/
def Part.lineFall (s : Part) (p : TwoIx) : Part := s.setTwo p { s.twoAt p with measureFrom := s.now }

/-! ### Two-wire: ends of an attempt -/

/-- An attempt in its course on a two-wire port, with its card's context and its bytes. -/
structure TwoCourse where
  attempt : Attempt
  ctx : Context
  slots : List Slot

/-- The attempt in its course on a port. -/
def Part.twoCourse (s : Part) (p : TwoIx) : Option TwoCourse :=
  match (s.twoAt p).startedAttempt with
  | none => none
  | some a =>
    match s.ctx a.card with
    | none => none
    | some c => some { attempt := a, ctx := c, slots := c.twoSlots a.entry }

/-- The point of an error for its record: at `pos`, with the last bytes given. -/
def pointAt (pos : BusPos) (legs : Nat) (lastAddress lastByte levels : Byte) : BusPoint :=
  let x := recordPosition legs pos
  { phase := x.1, leg := x.2.1, byteIndex := x.2.2, lastAddress := lastAddress, lastByte := lastByte, levels := levels }

/-- The attempt ends with a stop the part drives: the view is FREE and the port IDLE (R95, R97, R98). -/
def Part.endByStop (s : Part) (p : TwoIx) (a : Attempt) (o : AttemptOutcome) (point : BusPoint) (wire : List BusItem) : Part :=
  let t := { s.twoAt p with viewBusy := false, lastStop := s.now, measureFrom := s.now, stretchTimer := none, wire := wire ++ [.stop] }
  (s.setTwo p (s.twoIdle t)).attemptEnded (twoPort p) a o s.now point

/-- Every leg has been carried out, with as many data bytes as the READ legs have (R95). -/
def Part.twoDone (s : Part) (p : TwoIx) (data : List Byte) : Part :=
  match s.twoCourse p with
  | none => s
  | some x =>
    if data.length = readCount x.slots then
      s.endByStop p x.attempt (.done data) BusPoint.absent (twoTrace (crossed x.slots data []))
    else s

/-- A byte with its ninth bit refused. -/
def BusItem.refused : BusItem → BusItem
  | .address b _ => .address b false
  | .sent b _ => .sent b false
  | i => i

/-- The attempt ends with a stop after the byte at `pos`, which is refused or wrong: `last` is that byte, `items` its trace. -/
def Part.endAfterByte (s : Part) (p : TwoIx) (x : TwoCourse) (o : AttemptOutcome) (pos : BusPos) (b : Before) (cur : Slot)
    (rx : List Byte) (last : Byte) (items : List BusItem) (levels : BitVec 2) : Part :=
  s.endByStop p x.attempt o
    (pointAt pos x.ctx.legs.length (lastAddress (b.complete ++ [cur])) last (twoLevels levels))
    (twoTrace (crossed b.complete rx []) ++ items)

/-- The byte at a position that the device refuses, if it is one of those `f` picks. -/
def Part.refusedByte (s : Part) (p : TwoIx) (o : AttemptOutcome) (pos : BusPos) (rx : List Byte) (levels : BitVec 2)
    (f : SlotKind → Option Byte) : Part :=
  match s.twoCourse p with
  | none => s
  | some x =>
    match locateWith x.slots x.ctx.legs.length pos rx with
    | none => s
    | some b =>
      match b.current with
      | none => s
      | some cur =>
        match f cur.kind with
        | none => s
        | some byte =>
          s.endAfterByte p x o pos b cur rx byte
            ((Crossed.twoItems { slot := cur, byte := byte }).map BusItem.refused) levels

/-- A byte the part sends in a leg. -/
def SlotKind.outByte : SlotKind → Option Byte
  | .out b => some b
  | .address _ | .read _ | .readCheck => none

/-- An address byte. -/
def SlotKind.addressByte : SlotKind → Option Byte
  | .address b => some b
  | .out _ | .read _ | .readCheck => none

/-- Address byte `i` of a leg is refused (R91, R97). -/
def Part.addressNack (s : Part) (p : TwoIx) (leg i : Nat) (rx : List Byte) (levels : BitVec 2) : Part :=
  s.refusedByte p .addressNack (.address leg i) rx levels SlotKind.addressByte

/-- The length of a leg of the attempt in its course. -/
def Part.legLength (s : Part) (p : TwoIx) (leg : Nat) : Option Nat :=
  (s.twoCourse p).bind (fun x => x.ctx.legs[leg]?.map Leg.length)

/-- Data byte `i` of a WRITE leg is refused (R92, R97). -/
def Part.dataNack (s : Part) (p : TwoIx) (leg i : Nat) (rx : List Byte) (levels : BitVec 2) : Part :=
  match s.legLength p leg with
  | none => s
  | some n => if i < n then s.refusedByte p .dataNack (.data leg i) rx levels SlotKind.outByte else s

/-- The check byte of a READ leg is wrong (R93, R98). -/
def Part.wrongCheck (s : Part) (p : TwoIx) (pos : BusPos) (rx : List Byte) (got : Byte) (levels : BitVec 2) : Part :=
  match s.twoCourse p with
  | none => s
  | some x =>
    match locateWith x.slots x.ctx.legs.length pos rx with
    | none => s
    | some b =>
      match b.current with
      | none => s
      | some cur =>
        if cur.kind = .readCheck ∧ got ≠ lastByte (crossed (b.complete ++ [cur]) rx []) then
          s.endAfterByte p x .checkMismatch pos b cur rx got [.received got false] levels
        else s

/-- The check byte of a leg is refused by the device (WRITE leg) or wrong (READ leg) (R98). -/
def Part.checkMismatch (s : Part) (p : TwoIx) (leg : Nat) (rx : List Byte) (got : Option Byte) (levels : BitVec 2) : Part :=
  match s.legLength p leg with
  | none => s
  | some n =>
    match got with
    | none => s.refusedByte p .checkMismatch (.data leg n) rx levels SlotKind.outByte
    | some g => s.wrongCheck p (.data leg n) rx g levels

/-- The byte in which an arbitration may be lost: one the part sends with a bit released high (R99). -/
def SlotKind.contested : SlotKind → Bool
  | .address b => b != 0#8
  | .out b => b != 0#8
  | .read _ | .readCheck => false

/-- An arbitration loss in a byte, or of a start not yet driven (R99). -/
def Part.arbLost (s : Part) (p : TwoIx) (pos : BusPos) (rx : List Byte) (levels : BitVec 2) : Part :=
  match (s.twoAt p).pendingStart, pos with
  | some a, .start => s.loseStart p a levels
  | _, _ =>
    match s.twoCourse p with
    | none => s
    | some x =>
      match locateWith x.slots x.ctx.legs.length pos rx with
      | none => s
      | some b =>
        if !b.whole && b.current.any (fun c => c.kind.contested) then
          let cs := crossed b.complete rx []
          (s.setTwo p (s.twoLost (s.twoAt p) (twoTrace cs ++ [.released]))).attemptEnded (twoPort p) x.attempt .arbLost s.now
            (pointAt pos x.ctx.legs.length b.lastAddress (b.lastByte rx) (twoLevels levels))
        else s

/-- A position that does not lie between bytes: not after the ninth bit of one byte and before the first bit of the next (R101). -/
def withinTransfer : BusPos → Bool
  | .start | .address _ _ | .addressAck _ _ | .data _ _ | .dataAck _ _ | .stop | .stopAfterAddress _ _ | .stopAfterData _ _ => true
  | .turn _ | .readdress _ => false

/-- A misplaced stop or start condition (R101).  In the stop after a refused or wrong byte it takes the place of the refusal or mismatch
(the model's choice, log 45). -/
def Part.busError (s : Part) (p : TwoIx) (pos : BusPos) (rx : List Byte) (isStop : Bool) : Part :=
  match s.twoCourse p with
  | none => s
  | some x =>
    match locateWith x.slots x.ctx.legs.length pos rx with
    | none => s
    | some b =>
      if withinTransfer pos then
        let cs := crossed b.complete rx []
        let t := s.twoAt p
        let t0 :=
          { t with viewBusy := !isStop, lastStop := if isStop then s.now else t.lastStop, measureFrom := s.now
                   wire := twoTrace cs ++ [.released] }
        (s.setTwo p (s.twoIdle t0)).attemptEnded (twoPort p) x.attempt .busError s.now
          (pointAt pos x.ctx.legs.length b.lastAddress (b.lastByte rx) (twoLevels (if isStop then 0b11#2 else 0b01#2)))
      else s

/-- The clock, released in the attempt when `low` began, has been low for the reply limit (R96, R177; log 12). -/
def Part.stretchedOut (s : Part) (a : Attempt) (low : Measure) : Bool :=
  match a.start with
  | none => false
  | some start =>
    Time.atOrAfter low.since start && Time.atOrAfter s.now low.since && decide (1000 * a.entry.reply ≤ low.ns)

/-- A stretch timeout: the port passes to RECOVERING, the attempt still in progress (R102).  In the stop after a refused or wrong byte it
takes the place of the refusal or mismatch (the model's choice, log 45). -/
def Part.stretchTimeout (s : Part) (p : TwoIx) (pos : BusPos) (rx : List Byte) (low : Measure) (dataHigh : Bool) : Part :=
  match s.twoCourse p with
  | none => s
  | some x =>
    match locateWith x.slots x.ctx.legs.length pos rx with
    | none => s
    | some b =>
      if s.stretchedOut x.attempt low then
        let cs := crossed b.complete rx []
        s.setTwo p
          { s.twoAt p with
            state := .recovering
              { cause := .attempt x.attempt pos b.lastAddress (b.lastByte rx) (flagBit dataHigh 1), since := s.now
                limit := s.holdLimitUs, changes := [] }
            measureFrom := s.now, stretchTimer := some low.since, wire := twoTrace cs ++ [.released] }
      else s

/-! ### Fences -/

/-- The record of a port event (R103, R106, R121). -/
def portRecord (kind : FaultKind) (now : Time) (p : PortIx) (levels : Byte) : FaultRecord :=
  { FaultRecord.bare kind now with port := some p, levels := levels }

/-- The Attention Unit is told of a fence, and the port's ready list fails (R106, R121, steps 3 and 4). -/
def Part.fenceEffects (s : Part) (p : PortIx) : Part := (s.tell .port).failReadyList p

/-- A two-wire port takes up FENCED. -/
def TwoWire.fence (t : TwoWire) : TwoWire := { t with state := .fenced, holdTimer := none, stretchTimer := none }

/-- The expiry of the hold timer of a HELD port (R100, R106). -/
def Part.holdExpired (s : Part) (p : TwoIx) (levels : BitVec 2) : Part :=
  let t := s.twoAt p
  if t.state == .held && s.expired t.holdTimer then
    ((s.setTwo p t.fence).request (portRecord .busHeld s.now (twoPort p) (twoLevels levels))).fenceEffects (twoPort p)
  else s

/-! ### Four-wire -/

/-- The part asserts the select once the deselect interval has passed and the clock has stood at its idle level for a bit time
(R112, R113). -/
def Part.selectAssert (s : Part) (q : FourIx) (deselected idle : Measure) : Part :=
  let t := s.fourAt q
  match t.state with
  | .active (.select false) a =>
    if measureReaches deselected t.lastDeselect 1000 && measureReaches idle a.chosenAt a.entry.bitTime then
      s.setFour q
        { t with state := .active (.select true) { a with start := some s.now, fallback := s.time.source == .fallback }
                 wire := t.wire ++ [.select a.entry.address] }
    else s
  | .active (.select true) _ | .active .data _ | .idle | .yielded | .fenced => s

/-- The select lead has passed, and the part drives the first clock edge (R113). -/
def Part.selectLeadEnd (s : Part) (q : FourIx) (lead : Measure) : Part :=
  let t := s.fourAt q
  match t.state with
  | .active (.select true) a =>
    match a.start with
    | some start => if measureReaches lead start (1000 * a.entry.reply) then s.setFour q { t with state := .active .data a } else s
    | none => s
  | .active (.select false) _ | .active .data _ | .idle | .yielded | .fenced => s

/-- An attempt in phase DATA of a four-wire port, with its card's context and its bytes. -/
structure FourCourse where
  attempt : Attempt
  ctx : Context
  slots : List Slot

/-- The attempt of a port in phase DATA. -/
def Part.fourCourse (s : Part) (q : FourIx) : Option FourCourse :=
  match (s.fourAt q).state with
  | .active .data a =>
    match s.ctx a.card with
    | none => none
    | some c => some { attempt := a, ctx := c, slots := c.fourSlots a.entry }
  | .active (.select _) _ | .idle | .yielded | .fenced => none

/-- The select is deasserted and the attempt ends (R116, R117, R119). -/
def Part.endByDeselect (s : Part) (q : FourIx) (a : Attempt) (o : AttemptOutcome) (point : BusPoint) (wire : List BusItem) : Part :=
  let t := { s.fourAt q with lastDeselect := s.now, wire := wire }
  (s.setFour q (s.fourIdle t)).attemptEnded (fourPort q) a o s.now point

/-- The end of an attempt at a bit boundary: the clock returned to its idle level, the select deasserted, clock and data out released
(R116, R117). -/
def closingItems (e : DeviceEntry) : List BusItem := [.clockIdle (clockMode e.mode).idleHigh, .deselect, .released]

/-- Every leg of the attempt has been carried out, if the data read are as many as its READ legs have (R117). -/
def Part.fourFinished (s : Part) (q : FourIx) (data : List Byte) : Option Part :=
  match s.fourCourse q with
  | none => none
  | some x =>
    if data.length = readCount x.slots then
      some
        (s.endByDeselect q x.attempt (.done data) BusPoint.absent
          (fourTrace x.attempt.entry x.slots (crossed x.slots data []) ++ closingItems x.attempt.entry))
    else none

/-- Every leg has been carried out (R117). -/
def Part.fourDone (s : Part) (q : FourIx) (data : List Byte) : Part := (s.fourFinished q data).getD s

/-- The check byte of a READ leg is wrong (R116, R123).  The mismatch and its deselect are one step, so that no assertion of SENSE falls
between them (the model's choice, log 44). -/
def Part.fourCheckMismatch (s : Part) (q : FourIx) (leg : Nat) (rx : List Byte) (got : Byte) (levels : BitVec 3) : Part :=
  match s.fourCourse q with
  | none => s
  | some x =>
    match x.ctx.legs[leg]? with
    | none => s
    | some l =>
      match locateWith x.slots x.ctx.legs.length (.data leg l.length) rx with
      | none => s
      | some b =>
        match b.current with
        | none => s
        | some cur =>
          if cur.kind = .readCheck ∧ got ≠ lastByte (crossed (b.complete ++ [cur]) rx []) then
            s.endByDeselect q x.attempt .checkMismatch
              (pointAt (.data leg l.length) x.ctx.legs.length (byteOf x.attempt.entry.address) got
                (fourLevels levels (s.fourAt q).sense))
              (fourTrace x.attempt.entry x.slots (crossed b.complete rx []) ++
                .shifted x.attempt.entry.fill (some got) :: closingItems x.attempt.entry)
          else s

/-- A contention in phase SELECT (R119, R123). -/
def Part.contendSelect (s : Part) (q : FourIx) (asserted : Bool) (a : Attempt) (levels : BitVec 3) : Part :=
  let point : BusPoint :=
    { BusPoint.absent with
      phase := .select, lastAddress := byteOf a.entry.address, levels := fourLevels levels true }
  let t := s.fourAt q
  if asserted then s.endByDeselect q a .contention point (t.wire ++ [.released, .deselect])
  else
    (s.setFour q (s.fourIdle { t with wire := t.wire ++ [.released] })).attemptEnded (fourPort q) { a with start := some s.now }
      .contention s.now point

/-- A contention in phase DATA, in byte `i` of leg `leg` (R119, R123). -/
def Part.contendData (s : Part) (q : FourIx) (leg i : Nat) (rx : List Byte) (levels : BitVec 3) : Option Part :=
  match s.fourCourse q with
  | none => none
  | some x =>
    match locateWith x.slots x.ctx.legs.length (.data leg i) rx with
    | none => none
    | some b =>
      let cs := crossed b.complete rx []
      some
        (s.endByDeselect q x.attempt .contention
          (pointAt (.data leg i) x.ctx.legs.length (byteOf x.attempt.entry.address) (lastByte cs) (fourLevels levels true))
          (fourTrace x.attempt.entry x.slots cs ++ [.released, .deselect]))

/-- An assertion of SENSE on an ACTIVE port, at the position given; none when the attempt has no such position.  After the last bit the
attempt ends DONE with its deselect at once (R119; log 33). -/
def Part.senseActive (s : Part) (q : FourIx) (phase : FourPhase) (a : Attempt) (pos : SensePos) (rx : List Byte)
    (levels : BitVec 3) : Option Part :=
  match phase, pos with
  | .select asserted, .select => some (s.contendSelect q asserted a levels)
  | .data, .data leg i => s.contendData q leg i rx levels
  | .data, .afterLastBit => s.fourFinished q rx
  | _, _ => none

/-- The SENSE input as the part reads it. -/
def Part.setSense (s : Part) (q : FourIx) (sense : Bool) : Part := s.setFour q { s.fourAt q with sense := sense }

/-- An assertion of SENSE (R118, R119).  While RESET_N is asserted the input is only read. -/
def Part.senseAsserted (s : Part) (q : FourIx) (pos : SensePos) (rx : List Byte) (levels : BitVec 3) : Part :=
  if (s.fourAt q).sense then s
  else
    let s0 := s.setSense q true
    if s.host.resetAsserted then s0
    else
      match (s.fourAt q).state with
      | .idle => s0.setFour q (s0.fourIdle (s0.fourAt q))
      | .yielded | .fenced => s0
      | .active phase a => (s0.senseActive q phase a pos rx levels).getD s

/-- A deassertion of SENSE: a YIELDED port stops its hold timer and returns to IDLE (R118). -/
def Part.senseDeasserted (s : Part) (q : FourIx) : Part :=
  let t := { s.fourAt q with sense := false }
  match t.state with
  | .yielded => s.setFour q { t with state := .idle, holdTimer := none }
  | .idle | .active _ _ | .fenced => s.setFour q t

/-- The expiry of the hold timer of a YIELDED port (R121). -/
def Part.senseHoldExpired (s : Part) (q : FourIx) (levels : BitVec 3) : Part :=
  let t := s.fourAt q
  if t.state == .yielded && s.expired t.holdTimer then
    ((s.setFour q { t with state := .fenced, holdTimer := none }).request
      (portRecord .busHeld s.now (fourPort q) (fourLevels levels t.sense))).fenceEffects (fourPort q)
  else s

/-! ### The lines the part drives (Tables 5-1, 6-1) -/

/-- What the part does to a line: releases it, drives it at a level, or drives it at the level of the bit in progress. -/
inductive LineDrive
  | released | low | high | moving
  deriving DecidableEq, Repr

/-- A line driven at a level. -/
def LineDrive.at' (level : Bool) : LineDrive := if level then .high else .low

/-- A line driven at a level, or released. -/
def LineDrive.ofLevel : Option Bool → LineDrive
  | some level => .at' level
  | none => .released

/-- The lines of a two-wire port. -/
structure TwoLines where
  clock : LineDrive
  data : LineDrive
  deriving DecidableEq, Repr

/-- What the part drives on a two-wire port: nothing but in an attempt whose start has been driven and in a recovery (R87, R90, R103, Table
5-1). -/
def TwoWire.lines (t : TwoWire) : TwoLines :=
  match t.state with
  | .active _ a => if a.start.isSome then { clock := .moving, data := .moving } else { clock := .released, data := .released }
  | .recovering _ => { clock := .moving, data := .moving }
  | .idle | .held | .fenced => { clock := .released, data := .released }

/-- The lines of a four-wire port: clock and data out, and the select that is asserted, if one is; the other selects are driven
deasserted. -/
structure FourLines where
  clock : LineDrive
  dataOut : LineDrive
  asserted : Option (Fin 4)
  deriving DecidableEq, Repr

/-- Clock and data out released, every select deasserted. -/
def FourLines.quiet : FourLines := { clock := .released, dataOut := .released, asserted := none }

/-- What the part drives on a four-wire port (R111, R113, Table 6-1): only while it is ACTIVE the clock, at its idle level until phase
DATA, data out, with the first bit in phase SELECT where the mode presents it, and the select of the attempt from its assertion.  What it
does to data out in phase SELECT where no bit is presented is open (log 43). -/
def Part.fourLines (s : Part) (q : FourIx) : FourLines :=
  match (s.fourAt q).state with
  | .active phase a =>
    let select : Fin 4 := Fin.ofNat 4 a.entry.address
    match phase with
    | .select asserted =>
      { clock := .at' (clockMode a.entry.mode).idleHigh
        dataOut :=
          match (s.ctx a.card).bind (fun c => presentedFirst a.entry (c.fourSlots a.entry)) with
          | some bit => .at' bit
          | none => .ofLevel Config.unpresentedDataOut
        asserted := if asserted then some select else none }
    | .data => { clock := .moving, dataOut := .moving, asserted := some select }
  | .idle | .yielded | .fenced => .quiet

end Sys2Proof.Machine
end

