-- ==== Sys2Proof/Machine/Intake.lean ====
section
/-! DEFINITION. The Intake Unit: sweeps, the visit to one card, validation, acceptance, withdrawal and the control cards (R21 to
R45, R63, R84, R85, R107, R108, R122). -/

namespace Sys2Proof.Machine

/-! ### Sweeps -/

/-- A recovery in progress notes the bus hold limit that a sweep has taken into force, for the waits it has yet to begin (R26). -/
def TwoWire.noteLimit (t : TwoWire) (now : Time) (limit : Nat) : TwoWire :=
  match t.state with
  | .recovering r => { t with state := .recovering { r with changes := (now, limit) :: r.changes } }
  | .idle | .held | .active _ _ | .fenced => t

/-- The same for both two-wire ports, with the limit in force. -/
def Part.noteLimit (s : Part) : Part := { s with two := s.two.map (fun t => t.noteLimit s.now s.holdLimitUs) }

/-- Reading the posting header at the beginning of a sweep: values in range come into force, the header fault field is written, and
CAUSE.HEADER is set if one is out of range (R25). -/
def Part.readPostingHeader (s : Part) : Part :=
  let h := readHeader s.rep.mem
  let s0 := ({ s with intake := { s.intake with header := s.intake.header.map h.mergeInto } } : Part).noteLimit
  let s1 := s0.report (fun r => { r with mem := r.mem.setWord Addr.headerFault (BitVec.ofNat 32 h.fault.code) })
  if h.fault = .none then s1 else s1.tell .header

/-- A sweep begins: its timer is stopped, the header read, and the visit to card 0 begins (R22; log 17). -/
def Part.beginSweep (s : Part) : Part :=
  let s0 := s.readPostingHeader
  { s0 with intake := { s0.intake with timer := none, pos := some 0 } }

/-- A nudge, or the expiry of the sweep timer, where no sweep is in progress (R22, R23). -/
def Part.nudge (s : Part) : Part :=
  if s.run.state = .running then
    if s.intake.pos.isNone then s.beginSweep else { s with intake := { s.intake with pending := true } }
  else s

/-- The expiry of the sweep timer (R22). -/
def Part.sweepTimerExpired (s : Part) : Part :=
  if s.run.state = .running ∧ s.intake.pos = none ∧ s.expired s.intake.timer then s.beginSweep else s

/-- The sweep interval in force, in us. -/
def Part.sweepInterval (s : Part) : Nat :=
  match s.intake.header with
  | some h => h.interval
  | none => 0

/-- A sweep is complete: its count rises, and the pending sweep begins or the timer starts (R22). -/
def Part.completeSweep (s : Part) : Part :=
  let s0 := s.report (fun r => { r with mem := r.mem.setWord Addr.sweepCount (r.mem.word Addr.sweepCount + 1#32) })
  if s.intake.pending then ({ s0 with intake := { s0.intake with pending := false, pos := none } } : Part).beginSweep
  else { s0 with intake := { s0.intake with pos := none, timer := some (s.now + BitVec.ofNat 32 s.sweepInterval) } }

/-- The visit to card `n` has ended: the sweep goes on, is complete, or in QUIESCING ends early (R22, R24). -/
def Part.visitEnded (s : Part) (n : CardIx) : Part :=
  if s.run.state = .quiescing then
    ({ s with intake := { s.intake with pos := none, pending := false } } : Part).tryStop
  else if h : n.val + 1 < Config.cards then { s with intake := { s.intake with pos := some ⟨n.val + 1, h⟩ } }
  else s.completeSweep

/-! ### Table 2-2 -/

/-- The recorded progress a visit compares with (R27). -/
inductive Recorded
  | empty
  | waiting (g : Byte)
  | live (g : Byte) (withdrawalPending : Bool)
  | ended (g : Byte)
  deriving DecidableEq, Repr

/-- The recorded progress of a card: its context's, or that of its progress word (R27). -/
def Part.recorded (s : Part) (n : CardIx) : Recorded :=
  match s.ctx n with
  | some c => .live c.generation c.withdrawalPending
  | none =>
    let g := progressGeneration s.rep.mem n
    match progressState s.rep.mem n with
    | .empty => .empty
    | .waiting => .waiting g
    | .accepted | .active => .live g true
    | .ended | .failed | .withdrawn | .rejected => .ended g

/-- The decisions of a visit. -/
inductive Decision
  | noAction
  | intake (g : Byte) (retried : Bool)
  | withdraw
  | clearDone
  deriving DecidableEq, Repr

/-- Table 2-2. -/
def decideVisit (o : Order) (p : Recorded) : Decision :=
  match o, p with
  | .post g, .empty => .intake g false
  | .post g, .ended p => if g = p then .noAction else .intake g false
  | .post g, .waiting p => .intake g (g == p)
  | .post g, .live p pending => if pending || g == p then .noAction else .withdraw
  | .withdraw g, .waiting p => if g = p then .withdraw else .noAction
  | .withdraw g, .live p pending => if g = p ∧ !pending then .withdraw else .noAction
  | .withdraw _, .ended _ => .noAction
  | .withdraw _, .empty => .noAction
  | .idle, .waiting _ => .withdraw
  | .idle, .live _ pending => if pending then .noAction else .withdraw
  | .idle, .ended _ => .clearDone
  | .idle, .empty => .noAction

/-! ### Withdrawal -/

/-- The progress word of a posting without a context: debt 0, device used 0xFF (R15, R18). -/
def bareWord (g : Byte) (state : ProgressState) (result : ResultCode) : Word := progressWord g state result 0 0xFF#8

/-- A withdrawal request taken for an ACTIVE card (R63, Table 3-4). -/
def Part.withdrawActive (s : Part) (n : CardIx) (c : Context) : Part :=
  match c.phase with
  | .running =>
    s.setCtx n
      (some
        { c with withdrawalPending := true
                 pendingEnd := if c.pendingEnd = .none then .withdrawn else c.pendingEnd })
  | .sleeping | .waiting _ | .retryWait => s.endCard n c .withdrawn .withdrawnByOrder

/-- A withdrawal decided by a visit (R30). -/
def Part.withdrawCard (s : Part) (n : CardIx) : Part :=
  match s.ctx n with
  | some c => if c.active then s.withdrawActive n c else s.endCard n c .withdrawn .withdrawnByOrder
  | none =>
    (s.report (fun r => r.endWord n (bareWord (progressGeneration r.mem n) .withdrawn .withdrawnByOrder))).setWaiting n none

/-! ### Validation (Table 2-3) -/

/-- A WRITE leg within the leg count. -/
def LegField.isWrite (l : LegField) : Bool := l.op == 1

/-- A READ leg within the leg count. -/
def LegField.isRead (l : LegField) : Bool := l.op == 2

/-- One leg is legal by itself (R10). -/
def LegField.legal (l : LegField) : Bool :=
  (l.isWrite && decide (1 ≤ l.length) && decide (l.length ≤ 44) && decide (l.offset + l.length ≤ 44)) ||
    (l.isRead && decide (1 ≤ l.length))

/-- The total length of the legs of a kind. -/
def Request.total (r : Request) (f : LegField → Bool) : Nat := ((r.usedLegs.filter f).map LegField.length).sum

/-- The legs are legal (R10). -/
def Request.legsLegal (r : Request) : Bool :=
  decide (1 ≤ r.legCount) && decide (r.legCount ≤ 4) && r.usedLegs.all LegField.legal &&
    decide (r.total LegField.isWrite ≤ 44) && decide (r.total LegField.isRead ≤ 18)

/-- The bank fields are legal (R12). -/
def Request.bankLegal (r : Request) : Bool :=
  decide (r.bankCount ≤ 64) && (r.bankCount == 0 || decide (r.bankFirst + r.bankCount ≤ 512)) &&
    (r.bankCount != 0 || !r.usedLegs.any LegField.isRead)

/-- The priority and timing fields are legal (R36). -/
def Request.timingLegal (r : Request) : Bool :=
  decide (r.priority ≤ 3) &&
    (r.kind != 2 ||
      (decide (50 ≤ r.period.toNat) && decide (r.period.toNat ≤ 2000000000) &&
        (r.window == 0 || decide (r.window ≤ r.period.toNat))))

/-- Two banks share a slot. -/
def Bank.overlaps (a b : Bank) : Bool :=
  a.count != 0 && b.count != 0 && decide (a.first < b.first + b.count) && decide (b.first < a.first + a.count)

/-- The bank a card reserves: of its context, or of its waiting posting (R37). -/
def Part.reservation (s : Part) (n : CardIx) : Option Bank :=
  match s.ctx n with
  | some c => some { first := c.bankFirst, count := c.bankCount }
  | none => s.waiting[n]

/-- The bank overlaps one that another card reserves (R37). -/
def Part.bankTaken (s : Part) (n : CardIx) (b : Bank) : Bool :=
  allCards.any (fun m =>
    m != n && (match s.reservation m with
      | some a => a.overlaps b
      | none => false))

/-- The bank fields of a request as a bank. -/
def Request.bank (r : Request) : Bank := { first := r.bankFirst, count := r.bankCount }

/-- A validated card: a transfer card, or a control card with its device, or its device and aux, or its port. -/
inductive Valid
  | transfer (kind : TransferKind) (device : DevIx)
  | substitute (primary : DevIx) (aux : Nat)
  | restore (device : DevIx)
  | portClear (port : PortIx)
  deriving DecidableEq, Repr

/-- The device a request names, if its index is below 64 and its entry PRESENT and legal (R35). -/
def Part.acceptableDevice (s : Part) (r : Request) : Option DevIx :=
  match devIx? r.device with
  | none => none
  | some d => if (readEntry s.rep.mem d).usable then some d else none

/-- Checks 4 to 7, of a transfer card (Table 2-3). -/
def Part.checkTransfer (s : Part) (n : CardIx) (r : Request) (kind : TransferKind) (d : DevIx) : Except ResultCode Valid :=
  if !r.legsLegal then .error .rejectLegs
  else if !r.bankLegal then .error .rejectBank
  else if !r.timingLegal then .error .rejectTiming
  else if s.bankTaken n r.bank then .error .rejectOverlap
  else .ok (.transfer kind d)

/-- Check 3 on, by the card's kind (Table 2-3, R35). -/
def Part.checkKind (s : Part) (n : CardIx) (r : Request) : Except ResultCode Valid :=
  if r.kind = 5 then
    if h : r.aux < 4 then .ok (.portClear ⟨r.aux, h⟩) else .error .rejectDevice
  else
    match s.acceptableDevice r with
    | none => .error .rejectDevice
    | some d =>
      if r.kind = 3 then .ok (.substitute d r.aux)
      else if r.kind = 4 then .ok (.restore d)
      else s.checkTransfer n r (if r.kind = 1 then .once else .every) d

/-- Validation of card `n` on its intake buffer (R34). -/
def Part.validate (s : Part) (n : CardIx) (r : Request) : Except ResultCode Valid :=
  if crc16 r.covered ≠ r.check then .error .rejectCheck
  else if r.kind < 1 ∨ 5 < r.kind then .error .rejectKind
  else s.checkKind n r

/-! ### Outcomes of intake -/

/-- The new-generation values of the progress fields, unless the posting already has them (R15, R38). -/
def Part.freshFields (s : Part) (n : CardIx) (retried : Bool) : Part :=
  if retried then s else s.report (fun r => r.newGeneration n)

/-- The record of a rejected card (R38). -/
def rejectedRecord (now : Time) (n : CardIx) (g : Byte) (code : ResultCode) : FaultRecord :=
  { FaultRecord.bare .cardRejected now with result := code, card := some n, generation := g }

/-- A card is rejected (R38). -/
def Part.reject (s : Part) (n : CardIx) (g : Byte) (retried : Bool) (code : ResultCode) : Part :=
  let s0 := (s.request (rejectedRecord s.now n g code)).setWaiting n none
  (s0.freshFields n retried).report (fun r => r.endWord n (bareWord g .rejected code))

/-- A leg descriptor of a validated card. -/
def LegField.toLeg (l : LegField) : Leg :=
  { op := if l.isWrite then .write else .read, length := l.length, offset := l.offset }

/-- The flags of a transfer card, as in the request half (Table 3-1); CATCH_UP and STOP_ON_ERROR act on EVERY cards alone (R13), in
Context.catchesUp, Part.takeWindow and Part.afterEnd. -/
def flagsOf (b : Byte) : CardFlags :=
  { now := b.getLsbD 0, catchUp := b.getLsbD 1, keepNewest := b.getLsbD 2, stopOnError := b.getLsbD 3, setting := b.getLsbD 4
    notify := b.getLsbD 5 }

/-- The base of a card accepted now: the due field, or the time of acceptance under NOW (R8). -/
def Part.baseOf (s : Part) (r : Request) : Time := if r.flags.getLsbD 0 then s.now else r.due

/-- The context of a card at its acceptance (R39, R49).  R49 gives no resolved device before the first resolution: the model sets the
card's own device, with the substituted mark clear (the model's choice, log 40). -/
def Part.newContext (s : Part) (g : Byte) (kind : TransferKind) (d : DevIx) (r : Request) : Context where
  generation := g
  kind := kind
  priority := r.priority
  flags := flagsOf r.flags
  device := d
  legs := r.usedLegs.map LegField.toLeg
  inline := r.inline
  bankFirst := r.bankFirst
  bankCount := r.bankCount
  base := s.baseOf r
  period := if kind = .every then r.period else 0#32
  count := if kind = .every then r.count else 0
  window := r.window
  k := 0#32
  phase := .sleeping
  j := 0#32
  nextArrival := s.baseOf r
  armed := true
  started := false
  late := false
  catchUpRun := false
  fromRetry := false
  retryTally := 0
  yieldTally := 0
  windowExpiry := none
  gapExpiry := none
  resolved := d
  substituted := false
  run := 0#32
  missed := 0#32
  failed := 0#32
  debt := 0
  withdrawalPending := false
  pendingEnd := .none
  active := false
  made := 0#16
  lost := 0#16
  position := 0
  retriesTotal := 0#16
  yieldsTotal := 0#16
  deviceUsed := 0xFF#8
  last := none

/-- A context is granted: the card is ACCEPTED, and the arrivals already due are taken (R39, R51). -/
def Part.accept (s : Part) (n : CardIx) (g : Byte) (retried : Bool) (kind : TransferKind) (d : DevIx) (r : Request) : Part :=
  let c := s.newContext g kind d r
  let s0 := (((s.setWaiting n none).setCtx n (some c)).freshFields n retried).writeLive n c
  Part.finish { fromAcceptance := true, resume := false } n (s0, .settle { Fresh.none with arrival := true })

/-- No context is free: the card enters WAITING and sets CAUSE.BACKLOG, or stays WAITING (R40). -/
def Part.enterWaiting (s : Part) (n : CardIx) (g : Byte) (retried : Bool) (b : Bank) : Part :=
  let s0 := s.setWaiting n (some b)
  if retried then s0
  else ((s0.freshFields n false).report (fun r => r.writeProgress n (bareWord g .waiting .none))).tell .backlog

/-- A valid transfer card asks for a context (R39, R40). -/
def Part.takeTransfer (s : Part) (n : CardIx) (g : Byte) (retried : Bool) (kind : TransferKind) (d : DevIx) (r : Request) : Part :=
  if s.heldContexts < Config.contexts then s.accept n g retried kind d r else s.enterWaiting n g retried r.bank

/-! ### Control cards -/

/-- A control card's execution has ended (R42). -/
def Part.endControl (s : Part) (n : CardIx) (g : Byte) (retried : Bool) (state : ProgressState) (result : ResultCode) : Part :=
  ((s.setWaiting n none).freshFields n retried).report (fun r => r.endWord n (bareWord g state result))

/-- What a control card's execution answers: its state and result (Table 2-4). -/
structure ControlAnswer where
  part : Part
  state : ProgressState
  result : ResultCode

/-- SUBSTITUTE (R43, R84). -/
def Part.substitute (s : Part) (n : CardIx) (g : Byte) (d : DevIx) (aux : Nat) : ControlAnswer :=
  match devIx? aux with
  | none => { part := s, state := .failed, result := .deviceInvalid }
  | some b =>
    if b = d ∨ !s.usableStandby b then { part := s, state := .failed, result := .deviceInvalid }
    else if (s.dev.standbyOf d).isSome ∨ s.dev.subst.length < Config.substEntries then
      let s0 := s.changeDevice (s.dev.enter d b) d
      { part := if s.dev.isFenced d then s0.reresolveWhere (fun c => c.device == d) else s0, state := .ended, result := .ok }
    else { part := s.request (substRecord .substFull s.now d b n g), state := .failed, result := .substFull }

/-- RESTORE (R44, R85). -/
def Part.restore (s : Part) (d : DevIx) : ControlAnswer :=
  if s.dev.restorable d then
    let s0 := s.changeDevice ((s.dev.put d DeviceRecord.reset).remove d) d
    { part := s0.reresolveWhere (fun c => c.device == d), state := .ended, result := .ok }
  else { part := s, state := .ended, result := .nothingToDo }

/-- The port was not FENCED (R45). -/
def Part.nothingToClear (s : Part) : ControlAnswer := { part := s, state := .ended, result := .nothingToDo }

/-- PORT_CLEAR of a four-wire port: its line check reads SENSE (R122). -/
def Part.clearFour (s : Part) (q : FourIx) : ControlAnswer :=
  let t := s.fourAt q
  if t.isFenced then
    if t.sense then { part := s, state := .failed, result := .portFenced }
    else { part := s.setFour q (s.fourIdle t), state := .ended, result := .ok }
  else s.nothingToClear

/-- The line check of a PORT_CLEAR finds the data line low: recovery begins, and the execution goes on (R45, R107). -/
def Part.beginClear (s : Part) (n : CardIx) (g : Byte) (p : TwoIx) : Part :=
  let t := s.twoAt p
  let s0 :=
    s.setTwo p
      { t with
        state := .recovering { cause := .portClear, since := s.now, limit := s.holdLimitUs, changes := [] }
        wire := [] }
  { s0 with intake := { s0.intake with control := some { card := n, generation := g, port := p } } }

/-- Ending a control card as its execution answers. -/
def ControlAnswer.finish (a : ControlAnswer) (n : CardIx) (g : Byte) (retried : Bool) : Part :=
  a.part.endControl n g retried a.state a.result

/-- PORT_CLEAR of a two-wire port (R45, R107, R108). -/
def Part.clearTwo (s : Part) (n : CardIx) (g : Byte) (retried : Bool) (p : TwoIx) (dataHigh : Bool) : Part :=
  let t := s.twoAt p
  if t.isFenced then
    if dataHigh then
      ControlAnswer.finish { part := s.setTwo p (s.twoIdle t), state := .ended, result := .ok } n g retried
    else s.beginClear n g p
  else s.nothingToClear.finish n g retried

/-- PORT_CLEAR (R45). -/
def Part.portClear (s : Part) (n : CardIx) (g : Byte) (retried : Bool) (port : PortIx) (dataHigh : Bool) : Part :=
  if h : port.val < 2 then s.clearTwo n g retried ⟨port.val, h⟩ dataHigh
  else (s.clearFour ⟨port.val - 2, by omega⟩).finish n g retried

/-! ### The visit -/

/-- Intake of a posting: validation, then acceptance, WAITING, rejection or execution (R28, R34, R42). -/
def Part.intakeCard (s : Part) (n : CardIx) (g : Byte) (retried : Bool) (dataHigh : Bool) : Part :=
  let s0 := s.report (fun r => r.clearDone n)
  let r := readRequest s.rep.mem n
  match s0.validate n r with
  | .error code => s0.reject n g retried code
  | .ok (.transfer kind d) => s0.takeTransfer n g retried kind d r
  | .ok (.substitute d aux) => (s0.substitute n g d aux).finish n g retried
  | .ok (.restore d) => (s0.restore d).finish n g retried
  | .ok (.portClear port) => s0.portClear n g retried port dataHigh

/-- The order word of a card (R27). -/
def orderOf (m : Memory) (n : CardIx) : Order := Order.ofWord (m.word (Addr.card n))

/-- What a visit does to its card (R28, R29). -/
def Part.visitCard (s : Part) (n : CardIx) (dataHigh : Bool) : Part :=
  match decideVisit (orderOf s.rep.mem n) (s.recorded n) with
  | .noAction => s
  | .clearDone => s.report (fun r => r.clearDone n)
  | .withdraw => s.withdrawCard n
  | .intake g retried => s.intakeCard n g retried dataHigh

/-- The visit ends unless its control card's execution goes on (R42). -/
def Part.endVisit (s : Part) (n : CardIx) : Part := if s.intake.control.isNone then s.visitEnded n else s

/-- The visit to the card at the sweep position (R22, R27). -/
def Part.visit (s : Part) (dataHigh : Bool) : Part :=
  match s.intake.pos with
  | none => s
  | some n => if s.intake.control.isNone then (s.visitCard n dataHigh).endVisit n else s

/-- The answer of a two-wire port to a PORT_CLEAR whose recovery has ended: the card ends, and with it the visit (R42, R45). -/
def Part.answerClear (s : Part) (cleared : Bool) : Part :=
  match s.intake.control with
  | none => s
  | some x =>
    let s0 := { s with intake := { s.intake with control := none } }
    let s1 := if cleared then s0.endControl x.card x.generation false .ended .ok
      else s0.endControl x.card x.generation false .failed .portFenced
    s1.endVisit x.card

end Sys2Proof.Machine
end

