-- ==== Sys2Proof/Machine/RunControl.lean ====
section
/-! DEFINITION. Run Control: the resets, attach with its clearing and line checks, quiesce and resume, the recoveries of the two-wire
ports, and the supervision of the reference clock (R46, R103, R104, R107, R158, R162, R166 to R176). -/

namespace Sys2Proof.Machine

/-! ### Resets -/

/-- Zeroing, of the words attach writes, those of which `p` holds of the word's index; a device status word is written HEALTHY with
substitute 0xFF (R86, R172). -/
def Memory.attachClear (m : Memory) (p : Nat → Bool) : Memory :=
  (List.finRange Config.devices).foldl
    (fun m d => if p (Addr.status d / 4) then m.setWord (Addr.status d) statusAtAttach else m)
    (m.clearWhere (fun a => Addr.clearedByAttach a && p (a / 4)))

/-- The word index of the dropped-write mirror. -/
abbrev mirrorIndex : Nat := Addr.droppedMirror / 4

/-- The clearing of attach is in progress (R172). -/
def Part.inClearing (s : Part) : Bool := s.run.attach == some .clearing

/-- What attach has already cleared when a RESET abandons its clearing: a free value for each word (R172; log 21). -/
def Part.abandonClearing (s : Part) : Part :=
  if s.inClearing then
    let p := fun w => Config.clearedBefore s.freeCount w && !(s.host.mirrorZeroed && w == mirrorIndex)
    { s with
      rep := { s.rep with mem := s.rep.mem.attachClear p }
      host := { s.host with dropped := if p mirrorIndex then 0#16 else s.host.dropped }
      freeCount := s.freeCount + 1 }
  else s

/-- Every unit at its reset values, at the time count 0 (R169); the memory, the dropped-write counter, reference supervision and
the SENSE inputs stand, and the arbiter's waiting accesses are abandoned (R159). -/
def Part.unitsReset (s : Part) : Part :=
  { s with
    time := { s.time with count := 0#32 }
    host := { s.host with mirrorZeroed := false }
    arbiter := Part.reset.arbiter
    rep := { Part.reset.rep with mem := s.rep.mem }
    intake := Intake.reset
    run := Part.reset.run
    dev := DeviceUnit.reset
    ctxs := Vector.replicate Config.cards none
    waiting := Vector.replicate Config.cards none
    two := Vector.replicate 2 TwoWire.reset
    four := s.four.map (fun t => FourWire.reset t.sense) }

/-- A soft reset (R169). -/
def Part.softReset (s : Part) : Part := s.abandonClearing.unitsReset

/-- The assertion of RESET_N (R162, R170). -/
def Part.powerOnReset (s : Part) : Part :=
  let s0 := s.unitsReset
  { s0 with
    time := Part.reset.time
    host := { s0.host with resetAsserted := true, clearing := false, dropped := 0#16 } }

/-- The release of RESET_N: the power-on clear begins, and the time count counts from 0 (R162, R170). -/
def Part.releaseReset (s : Part) : Part :=
  if s.host.resetAsserted then
    { s with host := { s.host with resetAsserted := false, clearing := true }, time := { s.time with count := 0#32 } }
  else s

/-! ### The time count and the reference -/

/-- One microsecond (R46), a boundary at which a returned reference can take over (R176; log 23). -/
def Part.tick (s : Part) : Part :=
  { s with time :=
    { s.time with count := s.time.count + 1#32, boundary := s.time.runCount == Config.qualifyEdges } }

/-- An attempt whose start has been driven has met the fallback oscillator (R129, R175). -/
def Attempt.markFallback (a : Attempt) : Attempt := { a with fallback := a.fallback || a.start.isSome }

/-- The same for the attempt of a two-wire port, in its recovery too. -/
def TwoWire.markFallback (t : TwoWire) : TwoWire :=
  match t.state with
  | .active ph a => { t with state := .active ph a.markFallback }
  | .recovering r =>
    match r.cause with
    | .attempt a pos la lb lv => { t with state := .recovering { r with cause := .attempt a.markFallback pos la lb lv } }
    | .attach | .portClear => t
  | .idle | .held | .fenced => t

/-- The same for the attempt of a four-wire port. -/
def FourWire.markFallback (t : FourWire) : FourWire :=
  match t.state with
  | .active ph a => { t with state := .active ph a.markFallback }
  | .idle | .yielded | .fenced => t

/-- The gap without an edge, in ns of the fallback oscillator, at which the edge monitor finds the reference gone (R175, R176). -/
def edgeGapLimit : Nat := 2000

/-- A loss of the reference: the edge monitor has found a gap of 2 us (R175; log 23). -/
def Part.refLost (s : Part) : Part :=
  if s.time.source = .reference then
    let s0 :=
      { s with time := { s.time with source := .fallback, runCount := 0, edgeGap := edgeGapLimit, boundary := false }
               two := s.two.map TwoWire.markFallback, four := s.four.map FourWire.markFallback }
    (s0.request (FaultRecord.bare .refLost s.now)).tell .clock
  else s

/-- The return of the reference, at a microsecond boundary after the run count has reached 256 (R176). -/
def Part.refBack (s : Part) : Part :=
  if s.time.source = .fallback ∧ s.time.runCount = Config.qualifyEdges ∧ s.time.boundary then
    let s0 := { s with time := { s.time with source := .reference, boundary := false } }
    (s0.request (FaultRecord.bare .refBack s.now)).tell .clock
  else s

/-- A spacing of two rising edges is plausible (R175). -/
def plausible (spacing : Option Nat) : Bool :=
  match spacing with
  | some ns => decide (90 ≤ ns) && decide (ns ≤ 110)
  | none => false

/-- The run count after an edge (R176); at 256 it stays until the next loss. -/
def runCountAfter (runCount : Nat) (spacing : Option Nat) : Nat :=
  if runCount = Config.qualifyEdges then runCount
  else if plausible spacing then min Config.qualifyEdges (runCount + 1) else 1

/-- A rising edge of the reference (R175, R176). -/
def Part.referenceEdge (s : Part) (spacing : Option Nat) : Part :=
  match s.time.source with
  | .reference => { s with time := { s.time with edgeGap := 0 } }
  | .fallback => { s with time := { s.time with edgeGap := 0, runCount := runCountAfter s.time.runCount spacing } }

/-- A gap of 2 us without an edge while the source is FALLBACK (R176; log 23). -/
def Part.referenceGap (s : Part) : Part :=
  if s.time.source = .fallback then
    { s with time :=
      { s.time with edgeGap := edgeGapLimit, runCount := if s.time.runCount = Config.qualifyEdges then s.time.runCount else 0 } }
  else s

/-! ### Attach -/

/-- The fault of the header check of attach: the layout code, then the five values (R171). -/
def attachFault (m : Memory) : HeaderFault :=
  if m.word Addr.layout ≠ Config.layoutCode then .layout else (readHeader m).fault

/-- The header check of attach fails (R148, R171). -/
def Part.failAttach (s : Part) (fault : HeaderFault) : Part :=
  let s0 := { s with run := { s.run with state := .faulted, stopHeld := false, attach := none } }
  ((s0.report (fun r =>
    { r with mem := r.mem.setWord Addr.headerFault (BitVec.ofNat 32 fault.code), queue := [] })).tell .header).tell .runState

/-- A RUN in HALTED or FAULTED begins an attach with its header check (R167, R171). -/
def Part.beginAttach (s : Part) : Part :=
  let fault := attachFault s.rep.mem
  if fault = .none then
    { s with run := { s.run with state := .attaching, attach := some .clearing }
             intake := { s.intake with header := some (readHeader s.rep.mem).all }
             host := { s.host with mirrorZeroed := false } }
  else s.failAttach fault

/-- Entry into QUIESCING: sweeping stops (R168, R173). -/
def Part.quiesce (s : Part) : Part :=
  ({ s with run := { s.run with state := .quiescing }, intake := { s.intake with timer := none } } : Part).tryStop

/-- The IDLE ports take up a live run state: HELD on a BUSY view, YIELDED on an asserted SENSE (R89, R118, R172). -/
def Part.portsTakeUp (s : Part) : Part :=
  { s with two := s.two.map (fun t => if t.state = .idle then s.twoIdle t else t)
           four := s.four.map (fun t => if t.state = .idle then s.fourIdle t else t) }

/-- Entry into RUNNING at the end of attach; a held STOP is taken first (R172, step 3). -/
def Part.finishAttach (s : Part) : Part :=
  let s0 := { s with run := { s.run with state := .running, attach := none, stopHeld := false } }
  let s1 := (s0.tell .runState).portsTakeUp
  if s.run.stopHeld then s1.quiesce else s1.beginSweep

/-- A two-wire port is in the recovery of its line check at attach. -/
def TwoWire.inAttachCheck (t : TwoWire) : Bool :=
  match t.state with
  | .recovering r => r.cause == .attach
  | .idle | .held | .active _ _ | .fenced => false

/-- Attach ends when no line check is left (R172). -/
def Part.tryFinishAttach (s : Part) : Part :=
  if s.run.attach = some .lineCheck ∧ !s.two.toList.any TwoWire.inAttachCheck then s.finishAttach else s

/-- The line check of a two-wire port at attach (R107). -/
def Part.attachCheck (s : Part) (p : TwoIx) (dataHigh : Bool) : Part :=
  if dataHigh then s
  else
    s.setTwo p
      { s.twoAt p with
        state := .recovering { cause := .attach, since := s.now, limit := s.holdLimitUs, changes := [] }, wire := [] }

/-- The clearing of attach: every report word it writes, the counts of the fault log, and the dropped-write counter where its mirror
had not been zeroed already (R140, R158, R172).  A record lost during the clearing is lost before the lost count and its mirror are
zeroed (the model's choice, log 21). -/
def Part.attachClear (s : Part) : Part :=
  let keep := s.host.mirrorZeroed
  { s with
    rep := { s.rep with mem := s.rep.mem.attachClear (fun w => !(keep && w == mirrorIndex)), done := 0#96, appendCount := 0#32
                        logLost := 0#16 }
    host := { s.host with dropped := if keep then s.host.dropped else 0#16, mirrorZeroed := false }
    run := { s.run with attach := some .lineCheck } }

/-- The end of the clearing, with the line checks of ports 0 and 1 (R107, R172). -/
def Part.clearingEnd (s : Part) (data0High data1High : Bool) : Part :=
  if s.run.state = .attaching ∧ s.inClearing then
    ((s.attachClear.attachCheck 0 data0High).attachCheck 1 data1High).tryFinishAttach
  else s

/-! ### The commands RUN and STOP -/

/-- A RUN in STOPPED: each context takes its held events in order, and a sweep begins (R68, R174; log 18).  R174 does not order the pass
and the sweep's header read: the model takes the pass first, with the header values that were in force (the model's choice, log 42). -/
def Part.resume (s : Part) : Part :=
  let s0 := ({ s with run := { s.run with state := .running } } : Part).tell .runState
  (allCards.foldl (fun s n => Part.finish { fromAcceptance := false, resume := true } n (s, .settle .all)) s0).beginSweep

/-- RUN (R167). -/
def Part.runCommand (s : Part) : Part :=
  match s.run.state with
  | .halted | .faulted => s.beginAttach
  | .stopped => s.resume
  | .attaching | .running | .quiescing => s

/-- STOP (R168). -/
def Part.stopCommand (s : Part) : Part :=
  match s.run.state with
  | .running => s.quiesce
  | .attaching => { s with run := { s.run with stopHeld := true } }
  | .halted | .quiescing | .stopped | .faulted => s

/-! ### Recoveries (R103, R104, R106 to R108) -/

/-- The recovery in progress on a port. -/
def TwoWire.recovery (t : TwoWire) : Option Recovery :=
  match t.state with
  | .recovering r => some r
  | .idle | .held | .active _ _ | .fenced => none

/-- The record of a recovery's end, with the attempt that led to it (R105, Table 8-2). -/
def Part.recoveryRecord (s : Part) (kind : FaultKind) (p : TwoIx) (cause : RecoveryCause) (levels : Byte) : FaultRecord :=
  let f := portRecord kind s.now (twoPort p) levels
  match cause with
  | .attempt a _ _ _ _ =>
    match s.ctx a.card with
    | some c =>
      { f with device := some c.device, resolved := some a.device, card := some a.card, generation := c.generation }
    | none => f
  | .attach | .portClear => f

/-- What follows the end of a recovery: the attempt's outcome, the end of attach, or the answer to a PORT_CLEAR. -/
def Part.afterRecovery (s : Part) (p : TwoIx) (cause : RecoveryCause) (stuck : Bool) : Part :=
  match cause with
  | .attempt a pos la lb lv =>
    let legs := match s.ctx a.card with
      | some c => c.legs.length
      | none => 0
    s.attemptEnded (twoPort p) a (.stretchTimeout stuck) s.now (pointAt pos legs la lb lv)
  | .attach => s.tryFinishAttach
  | .portClear => s.answerClear (!stuck)

/-- A recovery succeeds after some clock pulses, at most 9, and its stop (R103, R104). -/
def Part.recoveryDone (s : Part) (p : TwoIx) (pulses : Nat) : Part :=
  let t := s.twoAt p
  match t.recovery with
  | none => s
  | some r =>
    if pulses ≤ 9 then
      let t0 :=
        { t with viewBusy := false, lastStop := s.now, measureFrom := s.now, stretchTimer := none
                 wire := t.wire ++ [.pulses pulses, .stop] }
      let s0 := (s.setTwo p (s.twoIdle t0)).request (s.recoveryRecord .recoveryDone p r.cause (twoLevels 0b11#2))
      s0.afterRecovery p r.cause false
    else s

/-- The bus hold limit in force when a wait of the recovery began at time count `t`, in us: the last that came into force at or before it
(R26; log 36). -/
def Recovery.limitAt (r : Recovery) (t : Time) : Nat :=
  match r.changes.find? (fun x => Time.atOrAfter t x.1) with
  | some x => x.2
  | none => r.limit

/-- A failure of the recovery has come: the clock has stayed low for the limit that its wait began with, in step 1 from the recovery's
beginning and in a pulse from that release, or the data line is still low after the ninth pulse (R26, R103). -/
def Part.recoveryFails (s : Part) (r : Recovery) (dataHigh : Bool) : StuckBy → Bool
  | .firstWait low => measureReaches low r.since (1000 * r.limit)
  | .pulseWait pulses low =>
    decide (pulses < 9) && Time.atOrAfter low.since r.since && Time.atOrAfter s.now low.since && decide (1000 * r.limitAt low.since ≤ low.ns)
  | .dataLow => !dataHigh

/-- The whole pulses that a failed recovery has driven (R103): none before step 3, and nine where the data line is still low after them. -/
def stuckPulses : StuckBy → List BusItem
  | .firstWait _ => []
  | .pulseWait pulses _ => [.pulses pulses]
  | .dataLow => [.pulses 9]

/-- The fence of a failed recovery, with CAUSE.PORT and its ready list unless the port was fenced throughout (R106, R108). -/
def Part.stuckEffects (s : Part) (p : TwoIx) (cause : RecoveryCause) : Part :=
  match cause with
  | .attempt _ _ _ _ _ | .attach => s.fenceEffects (twoPort p)
  | .portClear => s

/-- A recovery fails: the port is fenced with a PORT_STUCK record (R103, R106; log 28). -/
def Part.portStuck (s : Part) (p : TwoIx) (reason : StuckBy) (dataHigh : Bool) : Part :=
  let t := s.twoAt p
  match t.recovery with
  | none => s
  | some r =>
    if s.recoveryFails r dataHigh reason then
      let t0 := { t.fence with measureFrom := s.now, wire := t.wire ++ stuckPulses reason ++ [.released] }
      let s0 := (s.setTwo p t0).request (s.recoveryRecord .portStuck p r.cause (flagBit dataHigh 1))
      (s0.stuckEffects p r.cause).afterRecovery p r.cause true
    else s

end Sys2Proof.Machine
end

