-- ==== Sys2Proof/Machine/HostPort.lean ====
section
/-! DEFINITION. The Host Access Port: writes and reads of the exchange memory and the registers, dropped writes, and the accesses
held while the port is not ready (R151, R152, R156 to R158, R162 to R165). -/

namespace Sys2Proof.Machine

/-! ### Writes -/

/-- Writing the dropped-write mirror (R158). -/
def Part.writeDroppedMirror (s : Part) : Part :=
  s.report (fun r => { r with mem := r.mem.setWord Addr.droppedMirror (Word.ofHalves s.host.dropped 0#16) })

/-- During the clearing of attach the word of the mirror may have been zeroed already, and the counter with it (R158, R172; a free
value, log 21). -/
def Part.mayHaveZeroed (s : Part) : Part :=
  if s.inClearing && !s.host.mirrorZeroed then
    let z := Config.mirrorZeroedBefore s.freeCount
    { s with host := { s.host with mirrorZeroed := z, dropped := if z then 0#16 else s.host.dropped }
             freeCount := s.freeCount + 1 }
  else s

/-- A write to a report word is dropped: the counter rises, saturating, and its mirror is written after a rise (R158). -/
def Part.dropWrite (s : Part) : Part :=
  let s0 := s.mayHaveZeroed
  if s0.host.dropped = 0xFFFF#16 then s0
  else ({ s0 with host := { s0.host with dropped := s0.host.dropped + 1#16 } } : Part).writeDroppedMirror

/-- A host write of one word of the exchange memory (R157, R158). -/
def Part.hostWrite (s : Part) (offset : Nat) (value : Word) (enables : BitVec 4) : Part :=
  if enables = 0#4 then s
  else
    match Memory.ownerOf offset with
    | .report => s.dropWrite
    | .posting | .scratch => s.report (fun r => { r with mem := r.mem.setEnabled offset value enables })

/-- A host access of a command, carried out (R157, R164, R165). -/
def Part.carryOut (s : Part) : Instr → Part
  | .hostWrite offset value enables => s.hostWrite offset value enables
  | .run => s.runCommand
  | .stop => s.stopCommand
  | .reset => s.softReset
  | .nudge => s.nudge
  | .causeWrite value enables => s.report (fun r => r.writeCause value enables)
  | .enableWrite value enables => s.report (fun r => r.writeEnable value enables)
  | _ => s

/-- A host access: held on the bus while the port is not ready, else carried out (R162). -/
def Part.hostAccess (s : Part) (i : Instr) : Part :=
  if s.notReady then { s with host := { s.host with held := s.host.held ++ [i] } } else s.carryOut i

/-- The power-on clear has written its last word: every word is zero, and the held accesses are carried out in the order in which
they came (R162). -/
def Part.clearEnd (s : Part) : Part :=
  if s.host.clearing then
    s.host.held.foldl Part.carryOut
      { s with rep := { s.rep with mem := [] }, host := { s.host with clearing := false, held := [] } }
  else s

/-! ### Reads (log 34) -/

/-- The STATE register (R163, Table 12-15). -/
def Part.stateWord (s : Part) : Word :=
  BitVec.ofNat 32
    (s.run.state.code + (if s.time.source = .fallback then 8 else 0) + (if s.portFenced 0 then 16 else 0) +
      (if s.portFenced 1 then 32 else 0) + (if s.portFenced 2 then 64 else 0) + (if s.portFenced 3 then 128 else 0))

/-- What a read of a register returns (R163, Table 10-2). -/
def Part.readRegister (s : Part) (offset : Nat) : Word :=
  if offset = Reg.id then Config.idWord
  else if offset = Reg.state then s.stateWord
  else if offset = Reg.cause then s.rep.cause.setWidth 32
  else if offset = Reg.enable then s.rep.enable.setWidth 32
  else if offset = Reg.time then s.now
  else 0#32

/-- What a host read at a word's offset returns; none while the port is not ready, when it is held (R157, R161 to R163). -/
def Part.hostRead (s : Part) (offset : Nat) : Option Word :=
  if s.notReady then none
  else if offset < 0x8000 then some (s.rep.mem.word offset)
  else some (s.readRegister offset)

/-- The level of the IRQ output: deasserted from the moment either reset begins (R149, R152). -/
def Part.irq (s : Part) : Bool := s.rep.irq

end Sys2Proof.Machine
end

