-- ==== Sys2Proof/Machine/Effects.lean ====
section
/-! DEFINITION. The shape of a command's effect: a change of the part alone, the queue of waiting commands untouched. -/

namespace Sys2Proof.Machine

/-- A step to the next state that changes the part alone. -/
def State.onPart (s : State) (f : Part → Part) : Host.Outcome State Fault Refusal := .next { s with part := f s.part }

end Sys2Proof.Machine
end

