-- ==== Sys2Proof/Machine/FourWireEvents.lean ====
section
/-! DEFINITION. The events of the four-wire ports 2 and 3. -/

namespace Sys2Proof.Machine

/-- SELECT_ASSERT (R113). -/
def execSelectAssert (due : SelectDue) (s : State) : Host.Outcome State Fault Refusal :=
  s.onPart (fun p => p.selectAssert due.port due.deselected due.idle)

/-- SELECT_LEAD_END (R113). -/
def execSelectLeadEnd (lead : Elapsed FourIx) (s : State) : Host.Outcome State Fault Refusal :=
  s.onPart (fun p => p.selectLeadEnd lead.port lead.interval)

/-- FOUR_WIRE_DONE (R117). -/
def execFourWireDone (port : FourIx) (data : List Byte) (s : State) : Host.Outcome State Fault Refusal :=
  s.onPart (fun p => p.fourDone port data)

/-- FOUR_WIRE_CHECK_MISMATCH (R116). -/
def execFourWireCheckMismatch (port : FourIx) (leg : Nat) (rx : List Byte) (got : Byte) (levels : BitVec 3) (s : State) :
    Host.Outcome State Fault Refusal :=
  s.onPart (fun p => p.fourCheckMismatch port leg rx got levels)

/-- SENSE_ASSERTION (R118, R119). -/
def execSenseAssertion (port : FourIx) (pos : SensePos) (rx : List Byte) (levels : BitVec 3) (s : State) :
    Host.Outcome State Fault Refusal :=
  s.onPart (fun p => p.senseAsserted port pos rx levels)

/-- SENSE_DEASSERTION (R118). -/
def execSenseDeassertion (port : FourIx) (s : State) : Host.Outcome State Fault Refusal :=
  s.onPart (fun p => p.senseDeasserted port)

/-- SENSE_HOLD_EXPIRY (R121). -/
def execSenseHoldExpiry (port : FourIx) (levels : BitVec 3) (s : State) : Host.Outcome State Fault Refusal :=
  s.onPart (fun p => p.senseHoldExpired port levels)

end Sys2Proof.Machine
end

