-- ==== Sys2Proof/Machine/HostCommands.lean ====
section
/-! DEFINITION. The host's commands: writes of the exchange memory and of the registers.  An access that comes while the port is not
ready is held (R162). -/

namespace Sys2Proof.Machine

/-- HOST_WRITE (R157, R158); an offset that is no word of the exchange memory is no access of it (log 29). -/
def execHostWrite (offset : Nat) (value : Word) (enables : BitVec 4) (s : State) : Host.Outcome State Fault Refusal :=
  if memoryOffset offset then s.onPart (fun p => p.hostAccess (.hostWrite offset value enables)) else .fault (.noSuchWord offset)

/-- RUN (R167). -/
def execRun (s : State) : Host.Outcome State Fault Refusal := s.onPart (fun p => p.hostAccess .run)

/-- STOP (R168). -/
def execStop (s : State) : Host.Outcome State Fault Refusal := s.onPart (fun p => p.hostAccess .stop)

/-- RESET (R169). -/
def execReset (s : State) : Host.Outcome State Fault Refusal := s.onPart (fun p => p.hostAccess .reset)

/-- NUDGE (R23). -/
def execNudge (s : State) : Host.Outcome State Fault Refusal := s.onPart (fun p => p.hostAccess .nudge)

/-- CAUSE_WRITE (R151, R155, R165). -/
def execCauseWrite (value : Word) (enables : BitVec 4) (s : State) : Host.Outcome State Fault Refusal :=
  s.onPart (fun p => p.hostAccess (.causeWrite value enables))

/-- ENABLE_WRITE (R152, R165). -/
def execEnableWrite (value : Word) (enables : BitVec 4) (s : State) : Host.Outcome State Fault Refusal :=
  s.onPart (fun p => p.hostAccess (.enableWrite value enables))

/-- REGISTER_WRITE_IGNORED (R157, R163, R164); a write that the part does not ignore is another command (log 29). -/
def execRegisterWriteIgnored (offset : Nat) (value : Word) (enables : BitVec 4) (s : State) : Host.Outcome State Fault Refusal :=
  if ignoredWrite offset value enables then s.onPart (fun p => p.hostAccess (.registerWriteIgnored offset value enables))
  else .fault (.writeNotIgnored offset)

end Sys2Proof.Machine
end

