-- ==== Sys2Proof/Machine/ReportEvents.lean ====
section
/-! DEFINITION. The appending of a fault record and the expiry of the holdoff timer. -/

namespace Sys2Proof.Machine

/-- The Fault Log Unit takes requests: in RUNNING, QUIESCING and STOPPED, and in ATTACHING once the clearing has ended (R148). -/
def Part.appends (s : Part) : Bool := s.run.state.live || (s.run.state == .attaching && s.run.attach == some .lineCheck)

/-- APPEND (R145 to R148). -/
def execAppend (s : State) : Host.Outcome State Fault Refusal :=
  s.onPart (fun p => if p.appends then p.report Reports.takeRequest else p)

/-- HOLDOFF_EXPIRY (R154). -/
def execHoldoffExpiry (s : State) : Host.Outcome State Fault Refusal :=
  s.onPart (fun p => if p.expired p.rep.holdoffTimer then p.report Reports.holdoffExpired else p)

end Sys2Proof.Machine
end

