-- ==== Sys2Proof/Machine/ResetAndClock.lean ====
section
/-! DEFINITION. The resets, the power-on clear, the time count and the supervision of the reference. -/

namespace Sys2Proof.Machine

/-- POWER_ON_RESET: the assertion of RESET_N (R170). -/
def execPowerOnReset (s : State) : Host.Outcome State Fault Refusal := s.onPart Part.powerOnReset

/-- RESET_N_RELEASE (R162, R170). -/
def execResetNRelease (s : State) : Host.Outcome State Fault Refusal := s.onPart Part.releaseReset

/-- POWER_ON_CLEAR_END (R162). -/
def execPowerOnClearEnd (s : State) : Host.Outcome State Fault Refusal := s.onPart Part.clearEnd

/-- TIME_COUNT_TICK (R46); the count stands at 0 while RESET_N is asserted (R170). -/
def execTimeCountTick (s : State) : Host.Outcome State Fault Refusal := s.onPart (fun p => p.unlessReset Part.tick)

/-- REF_LOST (R175). -/
def execRefLost (s : State) : Host.Outcome State Fault Refusal := s.onPart Part.refLost

/-- REF_BACK (R176). -/
def execRefBack (s : State) : Host.Outcome State Fault Refusal := s.onPart Part.refBack

/-- REFERENCE_EDGE (R175, R176); supervision starts afresh at the release of RESET_N (R170). -/
def execReferenceEdge (spacing : Option Nat) (s : State) : Host.Outcome State Fault Refusal :=
  s.onPart (fun p => p.unlessReset (fun p => p.referenceEdge spacing))

/-- REFERENCE_GAP (R176). -/
def execReferenceGap (s : State) : Host.Outcome State Fault Refusal := s.onPart (fun p => p.unlessReset Part.referenceGap)

end Sys2Proof.Machine
end

