-- ==== Sys2Proof/Machine/ScheduleEvents.lean ====
section
/-! DEFINITION. The timed events of cards, the arbiters' choices and the expiries of guards. -/

namespace Sys2Proof.Machine

/-- DUE_ARRIVAL (R52, R55). -/
def execDueArrival (card : CardIx) (s : State) : Host.Outcome State Fault Refusal := s.onPart (fun p => p.dueArrival card)

/-- WINDOW_EXPIRY (R53, R54). -/
def execWindowExpiry (card : CardIx) (s : State) : Host.Outcome State Fault Refusal :=
  s.onPart (fun p => p.timedCommand card .window)

/-- GAP_EXPIRY (R61). -/
def execGapExpiry (card : CardIx) (s : State) : Host.Outcome State Fault Refusal :=
  s.onPart (fun p => p.timedCommand card .gap)

/-- ARBITER_CHOICE (R58, R59). -/
def execArbiterChoice (port : PortIx) (s : State) : Host.Outcome State Fault Refusal := s.onPart (fun p => p.arbiterChoice port)

/-- GUARD_EXPIRY (R82). -/
def execGuardExpiry (dev : DevIx) (s : State) : Host.Outcome State Fault Refusal :=
  s.onPart (fun p => if p.expired (p.dev.get dev).guard then p.guardExpired dev else p)

end Sys2Proof.Machine
end

