-- ==== Sys2Proof/Machine/SweepEvents.lean ====
section
/-! DEFINITION. The end of attach's clearing, the sweep timer and the visits of a sweep. -/

namespace Sys2Proof.Machine

/-- ATTACH_CLEARING_END (R172). -/
def execAttachClearingEnd (data0High data1High : Bool) (s : State) : Host.Outcome State Fault Refusal :=
  s.onPart (fun p => p.clearingEnd data0High data1High)

/-- SWEEP_TIMER_EXPIRY (R22). -/
def execSweepTimerExpiry (s : State) : Host.Outcome State Fault Refusal := s.onPart Part.sweepTimerExpired

/-- VISIT (R28). -/
def execVisit (dataHigh : Bool) (s : State) : Host.Outcome State Fault Refusal := s.onPart (fun p => p.visit dataHigh)

end Sys2Proof.Machine
end

