-- ==== Sys2Proof/Machine/TwoWireEvents.lean ====
section
/-! DEFINITION. The events of the two-wire ports 0 and 1. -/

namespace Sys2Proof.Machine

/-- DRIVE_START_CONDITION (R90). -/
def execDriveStartCondition (free : Elapsed TwoIx) (s : State) : Host.Outcome State Fault Refusal :=
  s.onPart (fun p => p.driveStart free.port free.interval)

/-- START_CONDITION (R88 to R90). -/
def execStartCondition (port : TwoIx) (s : State) : Host.Outcome State Fault Refusal :=
  s.onPart (fun p => p.unlessReset (fun p => p.startSeen port))

/-- STOP_CONDITION (R88, R89). -/
def execStopCondition (port : TwoIx) (s : State) : Host.Outcome State Fault Refusal :=
  s.onPart (fun p => p.unlessReset (fun p => p.stopSeen port))

/-- BUS_FREE_TIME (R88, R89). -/
def execBusFreeTime (high : Elapsed TwoIx) (s : State) : Host.Outcome State Fault Refusal :=
  s.onPart (fun p => p.unlessReset (fun p => p.busFree high.port high.interval))

/-- BUS_LINE_FALL (R88). -/
def execBusLineFall (port : TwoIx) (s : State) : Host.Outcome State Fault Refusal :=
  s.onPart (fun p => p.unlessReset (fun p => p.lineFall port))

/-- TWO_WIRE_DONE (R95). -/
def execTwoWireDone (port : TwoIx) (data : List Byte) (s : State) : Host.Outcome State Fault Refusal :=
  s.onPart (fun p => p.twoDone port data)

/-- ADDRESS_NACK (R91, R97). -/
def execAddressNack (port : TwoIx) (leg i : Nat) (rx : List Byte) (levels : BitVec 2) (s : State) :
    Host.Outcome State Fault Refusal :=
  s.onPart (fun p => p.addressNack port leg i rx levels)

/-- DATA_NACK (R92, R97). -/
def execDataNack (port : TwoIx) (leg i : Nat) (rx : List Byte) (levels : BitVec 2) (s : State) :
    Host.Outcome State Fault Refusal :=
  s.onPart (fun p => p.dataNack port leg i rx levels)

/-- CHECK_MISMATCH (R98). -/
def execCheckMismatch (port : TwoIx) (leg : Nat) (rx : List Byte) (got : Option Byte) (levels : BitVec 2) (s : State) :
    Host.Outcome State Fault Refusal :=
  s.onPart (fun p => p.checkMismatch port leg rx got levels)

/-- ARB_LOST (R99). -/
def execArbLost (port : TwoIx) (pos : BusPos) (rx : List Byte) (levels : BitVec 2) (s : State) :
    Host.Outcome State Fault Refusal :=
  s.onPart (fun p => p.arbLost port pos rx levels)

/-- BUS_ERROR (R101). -/
def execBusError (port : TwoIx) (pos : BusPos) (rx : List Byte) (isStop : Bool) (s : State) :
    Host.Outcome State Fault Refusal :=
  s.onPart (fun p => p.busError port pos rx isStop)

/-- STRETCH_TIMEOUT (R96, R102). -/
def execStretchTimeout (port : TwoIx) (pos : BusPos) (rx : List Byte) (low : Measure) (dataHigh : Bool) (s : State) :
    Host.Outcome State Fault Refusal :=
  s.onPart (fun p => p.stretchTimeout port pos rx low dataHigh)

/-- RECOVERY_DONE (R103, R104, R107, R108). -/
def execRecoveryDone (port : TwoIx) (pulses : Nat) (s : State) : Host.Outcome State Fault Refusal :=
  s.onPart (fun p => p.recoveryDone port pulses)

/-- PORT_STUCK (R103, R104, R106 to R108). -/
def execPortStuck (port : TwoIx) (reason : StuckBy) (dataHigh : Bool) (s : State) : Host.Outcome State Fault Refusal :=
  s.onPart (fun p => p.portStuck port reason dataHigh)

/-- HOLD_TIMER_EXPIRY (R100, R106). -/
def execHoldTimerExpiry (port : TwoIx) (levels : BitVec 2) (s : State) : Host.Outcome State Fault Refusal :=
  s.onPart (fun p => p.holdExpired port levels)

end Sys2Proof.Machine
end

