-- ==== Sys2Proof/Machine/Dispatch.lean ====
section
/-! DEFINITION. The meaning of every command: one arm each. -/

namespace Sys2Proof.Machine

/-- What a command does to everything but the queue of waiting commands. -/
def exec (i : Instr) (s : State) : Host.Outcome State Fault Refusal :=
  match i with
  | .powerOnReset => Sys2Proof.Machine.execPowerOnReset s
  | .powerOnClearEnd => Sys2Proof.Machine.execPowerOnClearEnd s
  | .timeCountTick => Sys2Proof.Machine.execTimeCountTick s
  | .hostWrite offset value enables => Sys2Proof.Machine.execHostWrite offset value enables s
  | .run => Sys2Proof.Machine.execRun s
  | .attachClearingEnd data0High data1High => Sys2Proof.Machine.execAttachClearingEnd data0High data1High s
  | .stop => Sys2Proof.Machine.execStop s
  | .reset => Sys2Proof.Machine.execReset s
  | .nudge => Sys2Proof.Machine.execNudge s
  | .causeWrite value enables => Sys2Proof.Machine.execCauseWrite value enables s
  | .enableWrite value enables => Sys2Proof.Machine.execEnableWrite value enables s
  | .registerWriteIgnored offset value enables => Sys2Proof.Machine.execRegisterWriteIgnored offset value enables s
  | .sweepTimerExpiry => Sys2Proof.Machine.execSweepTimerExpiry s
  | .visit dataHigh => Sys2Proof.Machine.execVisit dataHigh s
  | .dueArrival card => Sys2Proof.Machine.execDueArrival card s
  | .windowExpiry card => Sys2Proof.Machine.execWindowExpiry card s
  | .gapExpiry card => Sys2Proof.Machine.execGapExpiry card s
  | .arbiterChoice port => Sys2Proof.Machine.execArbiterChoice port s
  | .guardExpiry dev => Sys2Proof.Machine.execGuardExpiry dev s
  | .driveStartCondition free => Sys2Proof.Machine.execDriveStartCondition free s
  | .startCondition port => Sys2Proof.Machine.execStartCondition port s
  | .stopCondition port => Sys2Proof.Machine.execStopCondition port s
  | .busFreeTime high => Sys2Proof.Machine.execBusFreeTime high s
  | .twoWireDone port data => Sys2Proof.Machine.execTwoWireDone port data s
  | .addressNack port leg k rx levels => Sys2Proof.Machine.execAddressNack port leg k rx levels s
  | .dataNack port leg k rx levels => Sys2Proof.Machine.execDataNack port leg k rx levels s
  | .checkMismatch port leg rx got levels => Sys2Proof.Machine.execCheckMismatch port leg rx got levels s
  | .arbLost port pos rx levels => Sys2Proof.Machine.execArbLost port pos rx levels s
  | .busError port pos rx isStop => Sys2Proof.Machine.execBusError port pos rx isStop s
  | .stretchTimeout port pos rx low dataHigh => Sys2Proof.Machine.execStretchTimeout port pos rx low dataHigh s
  | .recoveryDone port pulses => Sys2Proof.Machine.execRecoveryDone port pulses s
  | .portStuck port reason dataHigh => Sys2Proof.Machine.execPortStuck port reason dataHigh s
  | .holdTimerExpiry port levels => Sys2Proof.Machine.execHoldTimerExpiry port levels s
  | .selectAssert due => Sys2Proof.Machine.execSelectAssert due s
  | .selectLeadEnd lead => Sys2Proof.Machine.execSelectLeadEnd lead s
  | .fourWireDone port data => Sys2Proof.Machine.execFourWireDone port data s
  | .fourWireCheckMismatch port leg rx got levels => Sys2Proof.Machine.execFourWireCheckMismatch port leg rx got levels s
  | .senseAssertion port pos rx levels => Sys2Proof.Machine.execSenseAssertion port pos rx levels s
  | .senseDeassertion port => Sys2Proof.Machine.execSenseDeassertion port s
  | .senseHoldExpiry port levels => Sys2Proof.Machine.execSenseHoldExpiry port levels s
  | .append => Sys2Proof.Machine.execAppend s
  | .holdoffExpiry => Sys2Proof.Machine.execHoldoffExpiry s
  | .refLost => Sys2Proof.Machine.execRefLost s
  | .refBack => Sys2Proof.Machine.execRefBack s
  | .resetNRelease => Sys2Proof.Machine.execResetNRelease s
  | .referenceEdge spacing => Sys2Proof.Machine.execReferenceEdge spacing s
  | .referenceGap => Sys2Proof.Machine.execReferenceGap s
  | .busLineFall port => Sys2Proof.Machine.execBusLineFall port s

end Sys2Proof.Machine
end

