-- ==== Sys2Proof/Safety.lean ====
section
/-! DEFINITION. The invariants of the part that the spec names, and the words in which the statements about it are made. -/

namespace Sys2Proof.Machine

/-! ### Invariants -/

/-- The exchange memory has its canonical form. -/
def Part.memoryCanonical (s : Part) : Prop := s.rep.mem.wf = true

/-- The request queue holds at most 16 requests (R140), and the sample tally is at most 255 (R149). -/
def Part.reportsBounded (s : Part) : Prop := s.rep.queue.length ≤ Config.queueEntries ∧ s.rep.tally ≤ 255

/-- The substitution map holds at most 8 entries, no device is the primary of two, and no standby is its own primary (R83). -/
def Part.substLegal (s : Part) : Prop :=
  s.dev.subst.length ≤ Config.substEntries ∧ (s.dev.subst.map Prod.fst).Nodup ∧ ∀ e ∈ s.dev.subst, e.1 ≠ e.2

/-- The fault count of every device is at most 15 (R71), and the run count of the reference at most 256 (R175). -/
def Part.countsBounded (s : Part) : Prop := (∀ d : DevIx, (s.dev.get d).faults ≤ 15) ∧ s.time.runCount ≤ Config.qualifyEdges

/-- The debt of every card context is at most 6 (R56). -/
def Part.debtBounded (s : Part) : Prop := ∀ (n : CardIx) (c : Context), s.ctx n = some c → c.debt ≤ Config.debtLimit

/-- At most 32 cards hold card contexts (R48). -/
def Part.contextsBounded (s : Part) : Prop := s.heldContexts ≤ Config.contexts

/-- RESET_N is not asserted during the power-on clear, and while the port is not ready the run state is HALTED with no attach in
progress (R162). -/
def Part.resetHolds (s : Part) : Prop :=
  (s.host.clearing = true → s.host.resetAsserted = false) ∧
    (s.notReady = true → s.run.state = .halted ∧ s.run.attach = none)

/-- No instance stands on the ready list of a fenced port (R106, R121). -/
def Part.fencedListsEmpty (s : Part) : Prop := ∀ p : PortIx, s.portFenced p = true → s.readyCards p = []

/-- All the bounds together. -/
def Part.bounded (s : Part) : Prop := s.reportsBounded ∧ s.countsBounded ∧ s.debtBounded ∧ s.contextsBounded

/-! ### The host's accesses -/

/-- The commands that are accesses of the host (R157). -/
def hostCommand : Instr → Bool
  | .hostWrite _ _ _ | .run | .stop | .reset | .nudge | .causeWrite _ _ | .enableWrite _ _ | .registerWriteIgnored _ _ _ => true
  | _ => false

/-- The next state of a command, where it has one. -/
def nextOf (s : State) (i : Instr) : State :=
  match exec i s with
  | .next t => t
  | .fault _ => s
  | .refused _ => s

/-! ### What a card's progress half shows -/

/-- Card `n` holds no context, its progress word shows an end state with its result, its done bit is set in the held copy and in the
report header, and CAUSE.DONE is set (R18, R20, R137, R138). -/
def Part.cardEnded (s : Part) (n : CardIx) (g : Byte) (state : ProgressState) (result : ResultCode) : Prop :=
  s.ctx n = none ∧ s.rep.mem.get (Addr.progress n) = g ∧
    s.rep.mem.get (Addr.progress n + 1) = byteOf (state.code + 8 * result.code) ∧ s.rep.done.getLsbD n.val = true ∧
    s.rep.mem.word (Addr.doneMap + 4 * (n.val / 32)) = s.rep.done.extractLsb' (32 * (n.val / 32)) 32 ∧
    s.rep.latch .done = true

/-- The bytes that the end of card `n`, or its intake, may change: its progress half and its word of the done map. -/
def Addr.ofCardReport (n : CardIx) (a : Nat) : Prop :=
  (Addr.progress n ≤ a ∧ a < Addr.progress n + 32) ∨
    (Addr.doneMap + 4 * (n.val / 32) ≤ a ∧ a < Addr.doneMap + 4 * (n.val / 32) + 4)

/-! ### Attempts in progress -/

/-- A two-wire port carries out attempt `a`, its start driven at `start`, for the card that holds context `c`. -/
def Part.carriesOut (s : Part) (p : TwoIx) (a : Attempt) (start : Time) (c : Context) : Prop :=
  (∃ phase, (s.twoAt p).state = .active phase a) ∧ a.start = some start ∧ s.ctx a.card = some c

/-- The attempt of a two-wire port stands at `pos`, the data bytes `rx` received: the bytes before it, and the byte `cur` there. -/
def atByte (a : Attempt) (c : Context) (pos : BusPos) (rx : List Byte) (b : Before) (cur : Slot) : Prop :=
  locateWith (c.twoSlots a.entry) c.legs.length pos rx = some b ∧ b.current = some cur

/-- A two-wire port as a stop that the part drives leaves it: IDLE with the view FREE, the time of the last stop now (R95). -/
def TwoWire.afterStop (t : TwoWire) (now : Time) (wire : List BusItem) : TwoWire :=
  { t with
    state := .idle, viewBusy := false, lastStop := now, measureFrom := now, holdTimer := none, stretchTimer := none, wire := wire }

/-- A four-wire port as the deassertion of its select leaves it with SENSE deasserted (R117). -/
def FourWire.afterDeselect (t : FourWire) (now : Time) (wire : List BusItem) : FourWire :=
  { t with state := .idle, lastDeselect := now, holdTimer := none, wire := wire }

/-- What is kept of an attempt that ends now (R61, R129). -/
def Part.endedNow (s : Part) (a : Attempt) (start : Time) : LastAttempt :=
  { start := start, stop := s.time.count, device := a.device, substituted := a.substituted
    fallback := a.fallback || s.time.source == .fallback }

/-- A context whose instance passes to RETRY_WAIT after an attempt that ends now (R60, Table 3-3). -/
def Context.retrying (c : Context) (a : Attempt) (last : LastAttempt) : Context :=
  { c with
    last := some last, phase := .retryWait, gapExpiry := some (last.stop + BitVec.ofNat 32 (10 * a.entry.retryGap)) }

/-- The record of an attempt error of a port that ends now (R105, R123, Table 8-2). -/
def Part.errorRecord (s : Part) (kind : FaultKind) (port : PortIx) (a : Attempt) (c : Context) (disposition : Disposition)
    (result : ResultCode) (phase : RecordPhase) (leg byteIndex lastAddress lastByte levels : Byte) : FaultRecord :=
  { time := s.time.count, kind := kind, disposition := disposition, result := result, port := some port
    device := some c.device, resolved := some a.device, card := some a.card, generation := c.generation
    attempt := a.number, phase := phase, leg := leg, byteIndex := byteIndex, lastAddress := lastAddress
    lastByte := lastByte, levels := levels }

/-- The retryable outcomes lead to a retry: no pending end, the retry tally below the limit, a retry gap of 10 us or more (R60). -/
def retries (a : Attempt) (c : Context) : Prop :=
  c.pendingEnd = .none ∧ c.retryTally < a.entry.retryLimit ∧ 1 ≤ a.entry.retryGap ∧ a.entry.retryGap ≤ 255

/-! ### Serial check registers -/

/-- The bits of bytes as they cross a bus, each byte most significant bit first. -/
def serialBits (bytes : List Byte) : List Bool := bytes.flatMap (fun b => (List.range 8).map (fun i => b.getLsbD (7 - i)))

/-- A check register of `w` bits that takes in one bit: it shifts left, and where the bit that leaves differs from the bit taken in,
the polynomial is added. -/
def serialStep {w : Nat} (poly : BitVec w) (r : BitVec w) (bit : Bool) : BitVec w :=
  if r.msb != bit then (r <<< 1) ^^^ poly else r <<< 1

end Sys2Proof.Machine
end

