-- ==== Sys2Proof/Certificates/Slice0/Obligations.lean ====
section
/-! DEFINITION. The statements about the part, for the provers: each is a Prop, and none is proved here. -/

open Sys2Proof Sys2Proof.Machine

/-! ### Steps -/

/-- A step takes the command at the front of the queue and carries it out with the queue's rest; on an empty queue the block idles
(the model's choice, log 2). -/
def Obligations.StepTakesFrontCommand : Prop :=
  (∀ (c : Instr) (rest : List Instr) (s : State), s.pending = c :: rest → step s = exec c { s with pending := rest }) ∧
    ∀ s : State, s.pending = [] → step s = .next s

/-- Every well-formed command answers a next state and leaves the queue as it was; an event whose condition does not hold is among them
(the model's choice, log 1).  A host write that presents no word of the memory, and an ignored write that the part
does not ignore, stop with a fault (the model's choice, log 29), and nothing is refused. -/
def Obligations.WellFormedCommandsComplete : Prop :=
  (∀ (c : Instr) (s : State), c.wellFormed = true → ∃ t : State, exec c s = .next t ∧ t.pending = s.pending) ∧
  ((∀ (offset : Nat) (value : Word) (enables : BitVec 4) (s : State), ¬(offset % 4 = 0 ∧ offset < 0x8000) →
        exec (.hostWrite offset value enables) s = .fault (.noSuchWord offset)) ∧
      (∀ (offset : Nat) (value : Word) (enables : BitVec 4) (s : State), ignoredWrite offset value enables = false →
        exec (.registerWriteIgnored offset value enables) s = .fault (.writeNotIgnored offset)) ∧
      (∀ (c : Instr) (s : State) (f : Fault), exec c s = .fault f → c.wellFormed = false) ∧
      ∀ (c : Instr) (s : State) (r : Refusal), exec c s ≠ .refused r)

/-! ### Resets and clocks -/

/-- The machine after a power-on reset and its clear: the values the spec states, but for the time count 0 and the source and run count of
reference supervision, which the model takes as no time had passed during the clear (the model's choice, log 4). -/
def Obligations.ResetLeavesStatedValues : Prop :=
  let p := State.reset.part
  (p.run.state = .halted ∧ p.run.stopHeld = false ∧ p.time.count = 0#32 ∧ p.time.source = .fallback ∧ p.time.runCount = 0) ∧
    (∀ a : Nat, p.rep.mem.get a = 0#8) ∧
    (p.rep.done = 0#96 ∧ p.rep.appendCount = 0#32 ∧ p.rep.logLost = 0#16 ∧ p.rep.queue = [] ∧ p.host.dropped = 0#16) ∧
    (p.rep.cause = 0#8 ∧ p.rep.enable = 0#8 ∧ p.rep.tally = 0 ∧ p.rep.holdoffTimer = none ∧ p.irq = false) ∧
    (p.intake.timer = none ∧ p.intake.pending = false ∧ p.intake.pos = none ∧ p.intake.header = none) ∧
    (∀ d : DevIx, p.dev.get d = { health := .healthy, faults := 0, guard := none }) ∧ p.dev.subst = [] ∧
    (∀ n : CardIx, p.ctx n = none) ∧
    (∀ q : TwoIx, (p.twoAt q).state = .idle ∧ (p.twoAt q).viewBusy = true ∧ (p.twoAt q).lastStop = p.time.count ∧
      (p.twoAt q).holdTimer = none ∧ (p.twoAt q).stretchTimer = none) ∧
    ∀ q : FourIx, (p.fourAt q).state = .idle ∧ (p.fourAt q).lastDeselect = p.time.count ∧ (p.fourAt q).holdTimer = none

/-- The assertion of RESET_N puts every unit at its reset values, supervision afresh on the fallback oscillator, the dropped-write
counter at 0, and holds the host off; the memory's bytes await the clear, and the held accesses and the SENSE inputs stand.  The values of
the edge-gap measure, the boundary mark, the moment of the last entry into STOPPED and the traffic lists among them are the model's choice
(log 5).  The release begins the power-on clear with the time count at 0; the host stays held off. -/
def Obligations.PowerOnResetAndRelease : Prop :=
  (∀ s : State,
      exec .powerOnReset s = .next
        { s with part :=
          { Part.reset with
            host := { resetAsserted := true, clearing := false, held := s.part.host.held, dropped := 0#16, mirrorZeroed := false }
            rep := { Part.reset.rep with mem := s.part.rep.mem }
            four := s.part.four.map (fun t => FourWire.reset t.sense)
            freeCount := s.part.freeCount } }) ∧
  (∀ s : State, s.part.host.resetAsserted = true →
      exec .resetNRelease s = .next
        { s with part :=
          { s.part with
            host := { s.part.host with resetAsserted := false, clearing := true }
            time := { s.part.time with count := 0#32 } } } ∧
      (nextOf s .resetNRelease).part.notReady = true)

/-- The end of the power-on clear leaves every byte of the memory 0 and the port ready, and carries out the held accesses in the order
in which they came, each as it would be at any other time. -/
def Obligations.ClearEndZeroesMemoryThenServesHeld : Prop :=
  ∀ s : State, s.part.host.clearing = true → s.part.host.resetAsserted = false →
    (∀ i ∈ s.part.host.held, hostCommand i = true ∧ i.wellFormed = true) →
    let t : State :=
      { s with part :=
        { s.part with
          rep := { s.part.rep with mem := [] }
          host := { s.part.host with clearing := false, held := [] } } }
    exec .powerOnClearEnd s = .next (s.part.host.held.foldl nextOf t) ∧ (∀ a : Nat, t.part.rep.mem.get a = 0#8) ∧
      t.part.notReady = false

/-- A microsecond adds 1 to the time count modulo 2^32, in every run state; it is a boundary at which a reference whose run count stands at
256 may take over (that mark is the model's choice, log 23), and nothing else changes. -/
def Obligations.TickAdvancesTimeCount : Prop :=
  ∀ s : State, s.part.host.resetAsserted = false →
    exec .timeCountTick s = .next
      { s with part :=
        { s.part with time :=
          { s.part.time with count := s.part.time.count + 1#32, boundary := s.part.time.runCount == 256 } } }

/-- Reference supervision.  A gap of 2 us on the fallback oscillator while the source is REFERENCE makes it FALLBACK with run count 0; the
first microsecond boundary after the run count has reached 256 makes it REFERENCE; both leave the time count as it is, ask for their record
and set CAUSE.CLOCK.  In FALLBACK a plausible spacing (90 ns to 110 ns) adds 1 to the run count, another edge sets it to 1, and a gap sets
it to 0.  The gap is the event itself, the spacing comes with it, and the boundary is the mark of the last tick (the model's choice, log 23);
that a count of 256 stays at edges and gaps is the model's reading (log 24). -/
def Obligations.ReferenceSupervisionSwitchesSource : Prop :=
  (∀ s : State, s.part.time.source = .reference →
      exec .refLost s = .next
        { s with part :=
          ((({ s.part with
              time := { s.part.time with source := .fallback, runCount := 0, edgeGap := 2000, boundary := false }
              two := s.part.two.map TwoWire.markFallback
              four := s.part.four.map FourWire.markFallback }).request
            (FaultRecord.bare .refLost s.part.time.count)).tell .clock) }) ∧
  (∀ s : State, s.part.time.source = .fallback → s.part.time.runCount = 256 → s.part.time.boundary = true →
      exec .refBack s = .next
        { s with part :=
          ((({ s.part with time := { s.part.time with source := .reference, boundary := false } }).request
            (FaultRecord.bare .refBack s.part.time.count)).tell .clock) }) ∧
  ((∀ (s : State) (spacing : Option Nat), s.part.host.resetAsserted = false → s.part.time.source = .fallback →
        s.part.time.runCount < 256 →
        exec (.referenceEdge spacing) s = .next
          { s with part :=
            { s.part with time :=
              { s.part.time with
                edgeGap := 0
                runCount := if ∃ ns, spacing = some ns ∧ 90 ≤ ns ∧ ns ≤ 110 then s.part.time.runCount + 1 else 1 } } }) ∧
      (∀ (s : State) (spacing : Option Nat), s.part.host.resetAsserted = false →
        (s.part.time.source = .reference ∨ s.part.time.runCount = 256) →
        exec (.referenceEdge spacing) s = .next { s with part := { s.part with time := { s.part.time with edgeGap := 0 } } }) ∧
      ∀ s : State, s.part.host.resetAsserted = false → s.part.time.source = .fallback →
        exec .referenceGap s = .next
          { s with part :=
            { s.part with time :=
              { s.part.time with edgeGap := 2000, runCount := if s.part.time.runCount = 256 then 256 else 0 } } })

/-- A RESET, in every run state: every unit at its reset values and the time count 0 at once; the memory, the dropped-write counter,
reference supervision, the held accesses and the SENSE inputs stand.  In the clearing of an attach the same holds but for the words the
clearing may have reached, whatever value the open choice takes (log 21): each byte of the report words attach writes is as it was or as
attach leaves it, every other byte stands, and the dropped-write counter is as it was, or 0 where its mirror is 0.  The moment of the
last entry into STOPPED and the traffic lists after the reset are the model's choice (log 5). -/
def Obligations.SoftResetResetsUnits : Prop :=
  (∀ s : State, s.part.notReady = false → s.part.run.attach ≠ some .clearing →
      exec .reset s = .next
        { s with part :=
          { Part.reset with
            time := { s.part.time with count := 0#32 }
            host := { s.part.host with mirrorZeroed := false }
            rep := { Part.reset.rep with mem := s.part.rep.mem }
            four := s.part.four.map (fun t => FourWire.reset t.sense)
            freeCount := s.part.freeCount } }) ∧
  (∀ s : State, s.part.memoryCanonical → s.part.notReady = false → s.part.run.attach = some .clearing →
      ∃ (m : Memory) (dropped : Half) (used : Nat),
        exec .reset s = .next
          { s with part :=
            { Part.reset with
              time := { s.part.time with count := 0#32 }
              host := { s.part.host with dropped := dropped, mirrorZeroed := false }
              rep := { Part.reset.rep with mem := m }
              four := s.part.four.map (fun t => FourWire.reset t.sense)
              freeCount := used } } ∧
        m.wf = true ∧
        ((dropped = s.part.host.dropped ∧ m.word 0x004C = s.part.rep.mem.word 0x004C) ∨
          (s.part.host.mirrorZeroed = false ∧ dropped = 0#16 ∧ m.word 0x004C = 0#32)) ∧
        ∀ a : Nat, m.get a = s.part.rep.mem.get a ∨
          (Addr.clearedByAttach a = true ∧ m.get a = if 0x0500 ≤ a ∧ a < 0x0600 ∧ a % 4 = 2 then 0xFF#8 else 0#8))

/-! ### The Host Access Port -/

/-- A host write of a posting or scratch word changes the bytes whose enables are set and no other byte, and nothing else.  One of a
report word is dropped: the dropped-write counter rises by 1, saturating at 65535, and after a rise its mirror is written; no other byte
changes, and with no enable set nothing at all.  In the clearing of an attach the counter counts from where it stood or from 0, whatever
value the open choice takes (log 21). -/
def Obligations.HostWritePostsOrIsDropped : Prop :=
  (∀ (s : State) (offset : Nat) (value : Word) (enables : BitVec 4), s.part.memoryCanonical → s.part.notReady = false →
      offset % 4 = 0 → offset < 0x8000 → Memory.ownerOf offset ≠ .report →
      ∃ m : Memory,
        exec (.hostWrite offset value enables) s = .next { s with part := { s.part with rep := { s.part.rep with mem := m } } } ∧
          m.wf = true ∧
          ∀ a : Nat, m.get a =
            if offset ≤ a ∧ a < offset + 4 ∧ enables.getLsbD (a - offset) = true then value.byte (a - offset)
            else s.part.rep.mem.get a) ∧
  (∀ (s : State) (offset : Nat) (value : Word) (enables : BitVec 4), s.part.notReady = false → offset % 4 = 0 → offset < 0x8000 →
      Memory.ownerOf offset = .report → s.part.run.attach ≠ some .clearing →
      exec (.hostWrite offset value enables) s = .next
        (if enables = 0#4 ∨ s.part.host.dropped = 0xFFFF#16 then s
         else
          { s with part :=
            { s.part with
              host := { s.part.host with dropped := s.part.host.dropped + 1#16 }
              rep := { s.part.rep with mem := s.part.rep.mem.setWord 0x004C (Word.ofHalves (s.part.host.dropped + 1#16) 0#16) } } })) ∧
  (∀ (s : State) (offset : Nat) (value : Word) (enables : BitVec 4), s.part.memoryCanonical → s.part.notReady = false →
      offset % 4 = 0 → offset < 0x8000 → Memory.ownerOf offset = .report → s.part.run.attach = some .clearing →
      s.part.host.mirrorZeroed = false → enables ≠ 0#4 → s.part.host.dropped ≠ 0xFFFF#16 →
      ∃ t : State, exec (.hostWrite offset value enables) s = .next t ∧
        (t.part.host.dropped = s.part.host.dropped + 1#16 ∨ t.part.host.dropped = 1#16) ∧
        t.part.rep.mem.word 0x004C = Word.ofHalves t.part.host.dropped 0#16 ∧
        ∀ a : Nat, ¬(0x004C ≤ a ∧ a < 0x0050) → t.part.rep.mem.get a = s.part.rep.mem.get a)

/-- While the port asserts not ready every access of the host is held, in the order presented, and nothing else changes; a read
answers nothing. -/
def Obligations.AccessesHeldWhileNotReady : Prop :=
  ∀ (s : State) (i : Instr), hostCommand i = true → i.wellFormed = true → s.part.notReady = true →
    exec i s = .next { s with part := { s.part with host := { s.part.host with held := s.part.host.held ++ [i] } } } ∧
      ∀ offset : Nat, s.part.hostRead offset = none

/-- A write to ID, STATE, TIME or above the registers, a CONTROL write that names no command, and a register write with no enable
set change nothing and are not counted. -/
def Obligations.IgnoredRegisterWritesChangeNothing : Prop :=
  ∀ (s : State) (offset : Nat) (value : Word) (enables : BitVec 4), s.part.notReady = false → offset % 4 = 0 → 0x8000 ≤ offset →
    (offset = 0x8000 ∨ offset = 0x8008 ∨ offset = 0x8018 ∨ 0x801C ≤ offset ∨ enables = 0#4 ∨
      (offset = 0x8004 ∧ (enables.getLsbD 0 = false ∨ (value.byte 0 ≠ 1#8 ∧ value.byte 0 ≠ 2#8 ∧ value.byte 0 ≠ 3#8)))) →
    exec (.registerWriteIgnored offset value enables) s = .next s

/-- What reads return (R163): ID the part code and revision in every run state; STATE the run state, the FALLBACK indication and the
four fenced indications; TIME the time count; CONTROL, NUDGE and all above the registers 0; CAUSE and ENABLE the latches and bits; the
memory its words.  A write to ID, STATE or TIME or above the registers changes nothing and is not counted. -/
def Obligations.RegisterReadsReturnState : Prop :=
  ∀ s : State, s.part.notReady = false →
    s.part.hostRead 0x8000 = some 0x00020416#32 ∧ s.part.hostRead 0x8004 = some 0#32 ∧ s.part.hostRead 0x800C = some 0#32 ∧
      s.part.hostRead 0x8010 = some (s.part.rep.cause.setWidth 32) ∧
      s.part.hostRead 0x8014 = some (s.part.rep.enable.setWidth 32) ∧ s.part.hostRead 0x8018 = some s.part.time.count ∧
      (∀ offset : Nat, 0x801C ≤ offset → s.part.hostRead offset = some 0#32) ∧
      (∃ w : Word, s.part.hostRead 0x8008 = some w ∧ (w.toNat % 8) = s.part.run.state.code ∧
        (w.getLsbD 3 = true ↔ s.part.time.source = .fallback) ∧
        ∀ p : PortIx, w.getLsbD (4 + p.val) = s.part.portFenced p) ∧
      (∀ offset : Nat, offset < 0x8000 → s.part.hostRead offset = some (s.part.rep.mem.word offset)) ∧
      ∀ (offset : Nat) (value : Word) (enables : BitVec 4), offset % 4 = 0 →
        (offset = 0x8000 ∨ offset = 0x8008 ∨ offset = 0x8018 ∨ 0x801C ≤ offset) →
        exec (.registerWriteIgnored offset value enables) s = .next s

/-- A write of CAUSE clears each latch written with a 1 and leaves the others; a 1 for SAMPLE zeroes the tally and stops the holdoff
timer, whether SAMPLE was set or not (that it does so while SAMPLE is clear is the model's reading, log 39), and a 0 for it touches
neither; a byte not enabled is written with 0. -/
def Obligations.CauseWriteClearsLatches : Prop :=
  ∀ (s : State) (value : Word) (enables : BitVec 4), s.part.notReady = false →
    let w := if enables.getLsbD 0 then value.byte 0 else 0#8
    exec (.causeWrite value enables) s = .next
      { s with part :=
        { s.part with rep :=
          { s.part.rep with
            cause := s.part.rep.cause &&& ~~~w
            tally := if w.getLsbD 1 then 0 else s.part.rep.tally
            holdoffTimer := if w.getLsbD 1 then none else s.part.rep.holdoffTimer } } }

/-- A write of ENABLE changes the enable bits of the enabled bytes to the values written, and nothing else; a read of it returns the
enable bits; IRQ is asserted exactly while a latch is set with its enable bit set, whatever the run state. -/
def Obligations.EnableWriteSetsBitsAndIrqFollows : Prop :=
  (∀ (s : State) (value : Word) (enables : BitVec 4), s.part.notReady = false →
      exec (.enableWrite value enables) s = .next
        { s with part :=
          { s.part with rep :=
            { s.part.rep with enable := if enables.getLsbD 0 then value.byte 0 else s.part.rep.enable } } }) ∧
  (∀ s : State, s.part.notReady = false → s.part.hostRead 0x8014 = some (s.part.rep.enable.setWidth 32)) ∧
  (∀ s : State, s.part.irq = true ↔ ∃ i : Nat, i < 8 ∧ s.part.rep.cause.getLsbD i = true ∧ s.part.rep.enable.getLsbD i = true)

/-! ### Run control -/

/-- A RUN in HALTED or FAULTED begins an attach: with the layout code right and the five values in range the run state becomes
ATTACHING and the values come into force; with a fault it becomes FAULTED with the header fault field written, CAUSE.HEADER and
CAUSE.RUNSTATE set, the STOP-held flag cleared and the request queue emptied.  In STOPPED the run state becomes RUNNING, CAUSE.RUNSTATE is
set, each context takes its held events (before the sweep's header read: the model's choice, log 42) and a sweep begins at card 0: the
events are taken in the order of their times measured from the entry into STOPPED, at one time in the order gap expiry, due arrival,
window expiry, overtake, until none is due; so a retry gap that has run out, and a due arrival that is held, return the instance to a
ready list.  In ATTACHING, RUNNING or QUIESCING a RUN has no effect. -/
def Obligations.RunByRunState : Prop :=
  (∀ s : State, s.part.notReady = false → (s.part.run.state = .halted ∨ s.part.run.state = .faulted) →
      let m := s.part.rep.mem
      let h := readHeader m
      (m.word 0x0000 = 0x00000416#32 → h.fault = .none →
        exec .run s = .next
          { s with part :=
            { s.part with
              run := { s.part.run with state := .attaching, attach := some .clearing }
              intake := { s.part.intake with header := some h.all }
              host := { s.part.host with mirrorZeroed := false } } }) ∧
        (∀ fault : HeaderFault, fault = (if m.word 0x0000 ≠ 0x00000416#32 then .layout else h.fault) → fault ≠ .none →
          exec .run s = .next
            { s with part :=
              { s.part with
                run := { s.part.run with state := .faulted, stopHeld := false, attach := none }
                rep :=
                  { s.part.rep with
                    mem := m.setWord 0x0040 (BitVec.ofNat 32 fault.code), queue := []
                    cause := s.part.rep.cause ||| 0x20#8 ||| 0x80#8 } } })) ∧
  ((∀ s : State, s.part.notReady = false →
        (s.part.run.state = .attaching ∨ s.part.run.state = .running ∨ s.part.run.state = .quiescing) → exec .run s = .next s) ∧
      ∀ s : State, s.part.notReady = false → s.part.run.state = .stopped →
        ∃ t : State, exec .run s = .next t ∧ t.part.run.state = .running ∧ t.part.rep.latch .runState = true ∧
          t.part.intake.pos = some 0 ∧ t.part.intake.timer = none ∧ t.part.four = s.part.four ∧
          (∀ q : TwoIx, (s.part.twoAt q).recovery = none → t.part.twoAt q = s.part.twoAt q) ∧ t.part.dev = s.part.dev ∧
          t.part.time = s.part.time) ∧
  ((∀ (s : State) (c : Context), s.part.takesEvents = true →
        let pass := s.part.nextEvent { fromAcceptance := false, resume := true } c .all
        let due := fun (e : TimedEvent) (at' : Time) => c.armedAt e = some at' ∧ Time.atOrAfter s.part.time.count at' = true
        let after := fun at' : Time => (at' - s.part.run.stoppedAt).toNat
        let rank : TimedEvent → Nat := fun e => match e with | .gap => 0 | .arrival => 1 | .window => 2 | .overtake => 3
        (pass = none ↔ ∀ e at', ¬due e at') ∧
          ∀ e, pass = some e →
            ∃ at', due e at' ∧
              ∀ f at'', due f at'' → after at' < after at'' ∨ (after at' = after at'' ∧ rank e ≤ rank f)) ∧
      ∀ (s : State) (n : CardIx) (c : Context) (r : Resolution), s.part.notReady = false → s.part.run.state = .stopped →
        s.part.ctx n = some c → (∀ m, m ≠ n → s.part.ctx m = none) → s.part.resolve c.device = .ok r →
        let now := s.part.time.count
        (∀ e, c.phase = .retryWait → c.gapExpiry = some e → Time.atOrAfter now e = true →
          (c.armed = true → Time.atOrAfter now c.nextArrival = false) →
          ∃ t : State, exec .run s = .next t ∧
            t.part.ctx n = some
              { c with
                phase := .waiting r.port, fromRetry := true, resolved := r.device, substituted := r.substituted
                windowExpiry := none, gapExpiry := none }) ∧
          (c.phase = .sleeping → c.armed = true → c.pendingEnd = .none → Time.atOrAfter now c.nextArrival = true →
            let window := if c.window = 0 then none else some (c.nextArrival + BitVec.ofNat 32 c.window)
            let again := c.kind == .every && !(c.count != 0 && c.j + 1#32 == BitVec.ofNat 32 c.count)
            (∀ e, window = some e → Time.atOrAfter now e = false) →
            (again = true → Time.atOrAfter now (c.nextArrival + c.period) = false) →
            ∃ t : State, exec .run s = .next t ∧
              t.part.ctx n = some
                { c with
                  j := c.j + 1#32, nextArrival := c.nextArrival + c.period, armed := again, phase := .waiting r.port
                  resolved := r.device, substituted := r.substituted, windowExpiry := window, gapExpiry := none }))

/-- A STOP: in RUNNING the run state becomes QUIESCING and the sweep timer is stopped, or STOPPED at once when neither an attempt nor
a visit is in progress, a visit being in progress while the sweep position is set (the model's choice, log 17); in ATTACHING it is held;
elsewhere it has no effect.  In QUIESCING the end of the last attempt, here by DONE, enters STOPPED with CAUSE.RUNSTATE and the time of the
entry; while another attempt or a visit is in progress the run state stays. -/
def Obligations.StopByRunState : Prop :=
  (∀ s : State, s.part.notReady = false →
    let q := { s.part with run := { s.part.run with state := .quiescing }, intake := { s.part.intake with timer := none } }
    (s.part.run.state = .running → (s.part.attemptInProgress = true ∨ s.part.intake.pos ≠ none) →
      exec .stop s = .next { s with part := q }) ∧
      (s.part.run.state = .running → s.part.attemptInProgress = false → s.part.intake.pos = none →
        exec .stop s = .next
          { s with part :=
            { q with
              run := { s.part.run with state := .stopped, stoppedAt := s.part.time.count }
              rep := { s.part.rep with cause := s.part.rep.cause ||| 0x80#8 } } }) ∧
      (s.part.run.state = .attaching →
        exec .stop s = .next { s with part := { s.part with run := { s.part.run with stopHeld := true } } }) ∧
      ((s.part.run.state = .halted ∨ s.part.run.state = .quiescing ∨ s.part.run.state = .stopped ∨ s.part.run.state = .faulted) →
        exec .stop s = .next s)) ∧
  ∀ (s : State) (p : TwoIx) (a : Attempt) (start : Time) (c : Context) (data : List Byte), s.part.run.state = .quiescing →
    s.part.carriesOut p a start c → data.length = c.readTotal →
    let others := (∃ q : TwoIx, q ≠ p ∧ (s.part.twoAt q).busy = true) ∨ ∃ q : FourIx, (s.part.fourAt q).busy = true
    ∃ t : State, exec (.twoWireDone p data) s = .next t ∧
      (¬others → s.part.intake.pos = none →
        t.part.run = { s.part.run with state := .stopped, stoppedAt := s.part.time.count } ∧ t.part.rep.latch .runState = true) ∧
      (others ∨ s.part.intake.pos ≠ none → t.part.run = s.part.run)

/-- The end of attach's clearing with both data lines high, the dropped-write mirror not zeroed before: the report header is zero but for
its header fault field, of which nothing is said (a sweep of the entry writes it again), every progress half is zero, every device status
word HEALTHY with substitute 0xFF, and no other byte is written; the fault log's counts, the held done map and the dropped-write counter
are 0 (that the lost count and its mirror are 0 also where a request was lost during the clearing is the model's choice, log 21); and the
part enters RUNNING with CAUSE.RUNSTATE set and a sweep begun, unless a STOP is held.  An IDLE two-wire port whose view is
BUSY enters HELD and an IDLE four-wire port whose SENSE is asserted enters YIELDED, each with its hold timer started; the others stay
IDLE. -/
def Obligations.AttachClearsReportsAndRuns : Prop :=
  ∀ s : State, s.part.memoryCanonical → s.part.run.state = .attaching → s.part.run.attach = some .clearing →
    s.part.host.mirrorZeroed = false → (∀ q : TwoIx, (s.part.twoAt q).inAttachCheck = false) →
    ∃ t : State, exec (.attachClearingEnd true true) s = .next t ∧
      (∀ a : Nat, ¬(0x0040 ≤ a ∧ a < 0x0044) → t.part.rep.mem.get a =
        if Addr.clearedByAttach a then (if 0x0500 ≤ a ∧ a < 0x0600 ∧ a % 4 = 2 then 0xFF#8 else 0#8) else s.part.rep.mem.get a) ∧
      t.part.rep.appendCount = 0#32 ∧ t.part.rep.logLost = 0#16 ∧ t.part.rep.done = 0#96 ∧ t.part.host.dropped = 0#16 ∧
      t.part.rep.latch .runState = true ∧ t.part.run.attach = none ∧ t.part.run.stopHeld = false ∧
      (s.part.run.stopHeld = false → t.part.run.state = .running ∧ t.part.intake.pos = some 0) ∧
      (s.part.run.stopHeld = true → s.part.attemptInProgress = false → s.part.intake.pos = none →
        t.part.run.state = .stopped ∧ t.part.intake.pos = none) ∧
      (∀ h : Header, s.part.intake.header = some h →
        let expiry := some (s.part.time.count + BitVec.ofNat 32 (1000 * h.holdLimit))
        (∀ q : TwoIx, (s.part.twoAt q).state = .idle →
          t.part.twoAt q =
            if (s.part.twoAt q).viewBusy then { s.part.twoAt q with state := .held, holdTimer := expiry }
            else { s.part.twoAt q with state := .idle, holdTimer := none }) ∧
        ∀ q : FourIx, (s.part.fourAt q).state = .idle →
          t.part.fourAt q =
            if (s.part.fourAt q).sense then { s.part.fourAt q with state := .yielded, holdTimer := expiry }
            else { s.part.fourAt q with state := .idle, holdTimer := none })

/-! ### Sweeps and visits -/

/-- A nudge: in RUNNING with no sweep in progress a sweep begins at once, as at the expiry of the sweep timer, with the header read then:
each of the five values in its range comes into force, the header fault field shows the first that is out of range, or NONE, and
CAUSE.HEADER is set if there is one; in a sweep one further sweep is owed; in any other run state the nudge is ignored. -/
def Obligations.NudgeBeginsOrOwesSweep : Prop :=
  ∀ s : State, s.part.notReady = false →
    (s.part.run.state = .running → s.part.intake.pos = none →
      ∃ t : State, exec .nudge s = .next t ∧ t.part.intake.pos = some 0 ∧ t.part.intake.timer = none ∧
        t.part.intake.pending = s.part.intake.pending ∧ t.part.ctxs = s.part.ctxs ∧ t.part.run = s.part.run ∧
        exec .sweepTimerExpiry
          { s with part := { s.part with intake := { s.part.intake with timer := some s.part.time.count } } } = .next t ∧
        (let h := readHeader s.part.rep.mem
         t.part.intake.header = s.part.intake.header.map (fun old =>
            { interval := if 100 ≤ h.interval ∧ h.interval ≤ 100000 then h.interval else old.interval
              holdoff := if h.holdoff ≤ 65535 then h.holdoff else old.holdoff
              threshold := if 1 ≤ h.threshold ∧ h.threshold ≤ 255 then h.threshold else old.threshold
              level := if h.level = 0 then .quiet else if h.level = 1 then .full else old.level
              holdLimit := if 1 ≤ h.holdLimit ∧ h.holdLimit ≤ 255 then h.holdLimit else old.holdLimit }) ∧
          t.part.rep.mem = s.part.rep.mem.setWord 0x0040 (BitVec.ofNat 32 h.fault.code) ∧
          t.part.rep.cause = if h.fault = .none then s.part.rep.cause else s.part.rep.cause ||| 0x20#8)) ∧
      (s.part.run.state = .running → s.part.intake.pos ≠ none →
        exec .nudge s = .next { s with part := { s.part with intake := { s.part.intake with pending := true } } }) ∧
      (s.part.run.state ≠ .running → exec .nudge s = .next s)

/-- The expiry of the sweep timer in RUNNING begins a sweep: the timer stops, the visit to card 0 begins, each of the five header
values in its range comes into force and the others stay, a recovery in progress keeping the bus hold limit for the wait it has begun and
noting the new one for the next; the header fault field shows the first value that is out of range, or NONE, and CAUSE.HEADER is set if
there is one. -/
def Obligations.SweepBeginsWithHeader : Prop :=
  ∀ (s : State) (e : Time) (old : Header), s.part.run.state = .running → s.part.intake.pos = none →
    s.part.intake.timer = some e → Time.atOrAfter s.part.time.count e = true → s.part.intake.header = some old →
    let m := s.part.rep.mem
    let w := fun a : Nat => (m.word a).toNat
    let ok := [decide (100 ≤ w 0x4 ∧ w 0x4 ≤ 100000), decide (w 0x8 ≤ 65535), decide (1 ≤ w 0xC ∧ w 0xC ≤ 255),
      decide (w 0x10 ≤ 1), decide (1 ≤ w 0x14 ∧ w 0x14 ≤ 255)]
    let fault : Nat := match ok.findIdx? (fun b => !b) with
      | some i => i + 2
      | none => 0
    let holdLimit := if 1 ≤ w 0x14 ∧ w 0x14 ≤ 255 then w 0x14 else old.holdLimit
    exec .sweepTimerExpiry s = .next
      { s with part :=
        { s.part with
          intake :=
            { s.part.intake with
              timer := none, pos := some 0
              header := some
                { interval := if 100 ≤ w 0x4 ∧ w 0x4 ≤ 100000 then w 0x4 else old.interval
                  holdoff := if w 0x8 ≤ 65535 then w 0x8 else old.holdoff
                  threshold := if 1 ≤ w 0xC ∧ w 0xC ≤ 255 then w 0xC else old.threshold
                  level := if w 0x10 = 0 then .quiet else if w 0x10 = 1 then .full else old.level
                  holdLimit := holdLimit } }
          two := s.part.two.map (fun t =>
            match t.state with
            | .recovering r => { t with state := .recovering { r with changes := (s.part.time.count, 1000 * holdLimit) :: r.changes } }
            | _ => t)
          rep :=
            { s.part.rep with
              mem := m.setWord 0x0040 (BitVec.ofNat 32 fault)
              cause := if fault = 0 then s.part.rep.cause else s.part.rep.cause ||| 0x20#8 } } }

/-- How an order word is read (R2), and the decision of a visit for the order and the recorded progress (Table 2-2), where `p` is the
progress generation and `pending` says whether a withdrawal is pending on a live card. -/
def Obligations.OrderReadingAndVisitDecision : Prop :=
  (∀ w : Word,
      (w.byte 0 = 1#8 ∧ w.byte 1 ≠ 0#8 → Order.ofWord w = .post (w.byte 1)) ∧
        (w.byte 0 = 2#8 → Order.ofWord w = .withdraw (w.byte 1)) ∧
        (¬(w.byte 0 = 1#8 ∧ w.byte 1 ≠ 0#8) → w.byte 0 ≠ 2#8 → Order.ofWord w = .idle)) ∧
  (∀ (g p : Byte) (pending : Bool),
      (decideVisit (.post g) .empty = .intake g false ∧ (g ≠ p → decideVisit (.post g) (.ended p) = .intake g false)) ∧
        (g ≠ p → decideVisit (.post g) (.waiting p) = .intake g false) ∧ decideVisit (.post g) (.waiting g) = .intake g true ∧
        (g ≠ p → decideVisit (.post g) (.live p false) = .withdraw) ∧ decideVisit (.post g) (.live p true) = .noAction ∧
        decideVisit (.post g) (.live g pending) = .noAction ∧ decideVisit (.post g) (.ended g) = .noAction ∧
        decideVisit (.withdraw g) (.waiting g) = .withdraw ∧ decideVisit (.withdraw g) (.live g false) = .withdraw ∧
        decideVisit (.withdraw g) (.live g true) = .noAction ∧ decideVisit (.withdraw g) (.ended g) = .noAction ∧
        (g ≠ p → decideVisit (.withdraw g) (.waiting p) = .noAction ∧ decideVisit (.withdraw g) (.live p pending) = .noAction ∧
          decideVisit (.withdraw g) (.ended p) = .noAction) ∧
        decideVisit (.withdraw g) .empty = .noAction ∧ decideVisit .idle (.waiting p) = .withdraw ∧
        decideVisit .idle (.live p false) = .withdraw ∧ decideVisit .idle (.live p true) = .noAction ∧
        decideVisit .idle (.ended p) = .clearDone ∧ decideVisit .idle .empty = .noAction)

/-- A visit whose decision is no action writes nothing for its card: in RUNNING the sweep goes on with the next card, and after card
95 it is complete: the sweep count rises by 1 and the sweep timer starts with the interval in force, if no further sweep is owed.  In
QUIESCING the sweep ends after the visit, with no position, nothing owed and no timer started, and with no attempt in progress the part
enters STOPPED.  A visit to a card in an end state whose order is IDLE clears its done bit and nothing else. -/
def Obligations.VisitWithoutActionGoesOn : Prop :=
  (∀ (s : State) (n : CardIx) (dataHigh : Bool), s.part.run.state = .running → s.part.intake.pos = some n →
    s.part.intake.control = none → decideVisit (orderOf s.part.rep.mem n) (s.part.recorded n) = .noAction →
    (∀ h : n.val + 1 < 96,
      exec (.visit dataHigh) s = .next
        { s with part := { s.part with intake := { s.part.intake with pos := some ⟨n.val + 1, h⟩ } } }) ∧
      (n.val = 95 → s.part.intake.pending = false →
        exec (.visit dataHigh) s = .next
          { s with part :=
            { s.part with
              rep := { s.part.rep with mem := s.part.rep.mem.setWord 0x0044 (s.part.rep.mem.word 0x0044 + 1#32) }
              intake :=
                { s.part.intake with
                  pos := none, timer := some (s.part.time.count + BitVec.ofNat 32 s.part.sweepInterval) } } }) ∧
      (n.val = 95 → s.part.intake.pending = true →
        ∃ t : State, exec (.visit dataHigh) s = .next t ∧ t.part.intake.pos = some 0 ∧ t.part.intake.pending = false ∧
          t.part.intake.timer = none)) ∧
  (∀ (s : State) (n : CardIx) (dataHigh : Bool), s.part.run.state = .quiescing → s.part.intake.pos = some n →
    s.part.intake.control = none → decideVisit (orderOf s.part.rep.mem n) (s.part.recorded n) = .noAction →
    let q := { s.part with intake := { s.part.intake with pos := none, pending := false } }
    (s.part.attemptInProgress = true → exec (.visit dataHigh) s = .next { s with part := q }) ∧
      (s.part.attemptInProgress = false →
        exec (.visit dataHigh) s = .next
          { s with part :=
            { q with
              run := { s.part.run with state := .stopped, stoppedAt := s.part.time.count }
              rep := { s.part.rep with cause := s.part.rep.cause ||| 0x80#8 } } })) ∧
  ∀ (s : State) (n : CardIx) (dataHigh : Bool) (h : n.val + 1 < 96), s.part.memoryCanonical → s.part.run.state = .running →
    s.part.intake.pos = some n → s.part.intake.control = none →
    decideVisit (orderOf s.part.rep.mem n) (s.part.recorded n) = .clearDone →
    let word := 0x0050 + 4 * (n.val / 32)
    let done := s.part.rep.done &&& ~~~(1#96 <<< n.val)
    ∃ m : Memory,
      exec (.visit dataHigh) s = .next
        { s with part :=
          { s.part with
            rep := { s.part.rep with mem := m, done := done }
            intake := { s.part.intake with pos := some ⟨n.val + 1, h⟩ } } } ∧
      m.word word = done.extractLsb' (32 * (n.val / 32)) 32 ∧
      ∀ a : Nat, ¬(word ≤ a ∧ a < word + 4) → m.get a = s.part.rep.mem.get a

/-- The checks of validation, in the order of Table 2-3, each with its code: the first that fails decides; and what makes the legs, the
bank, the timing fields and a device's entry legal (R10, R12, R36, Table 4-1). -/
def Obligations.ValidationStopsAtFirstFailure : Prop :=
  (∀ (s : State) (n : CardIx) (r : Request),
    let p := s.part
    let deviceOk := ∃ h : r.device < 64, (readEntry p.rep.mem ⟨r.device, h⟩).usable = true
    (crc16 r.covered ≠ r.check → p.validate n r = .error .rejectCheck) ∧
      (crc16 r.covered = r.check →
        ((r.kind < 1 ∨ 5 < r.kind) → p.validate n r = .error .rejectKind) ∧
        (r.kind = 5 → 4 ≤ r.aux → p.validate n r = .error .rejectDevice) ∧
        (∀ h : r.aux < 4, r.kind = 5 → p.validate n r = .ok (.portClear ⟨r.aux, h⟩)) ∧
        (1 ≤ r.kind → r.kind ≤ 4 → ¬deviceOk → p.validate n r = .error .rejectDevice) ∧
        (∀ h : r.device < 64, (readEntry p.rep.mem ⟨r.device, h⟩).usable = true →
          (r.kind = 3 → p.validate n r = .ok (.substitute ⟨r.device, h⟩ r.aux)) ∧
          (r.kind = 4 → p.validate n r = .ok (.restore ⟨r.device, h⟩)) ∧
          (r.kind = 1 ∨ r.kind = 2 →
            (r.legsLegal = false → p.validate n r = .error .rejectLegs) ∧
            (r.legsLegal = true → r.bankLegal = false → p.validate n r = .error .rejectBank) ∧
            (r.legsLegal = true → r.bankLegal = true → r.timingLegal = false → p.validate n r = .error .rejectTiming) ∧
            (r.timingLegal = true ↔ r.priority ≤ 3 ∧
              (r.kind = 2 → 50 ≤ r.period.toNat ∧ r.period.toNat ≤ 2000000000 ∧ (r.window = 0 ∨ r.window ≤ r.period.toNat))) ∧
            (r.legsLegal = true → r.bankLegal = true → r.timingLegal = true →
              ((∃ m b, m ≠ n ∧ p.reservation m = some b ∧ b.overlaps r.bank = true) →
                p.validate n r = .error .rejectOverlap) ∧
              ((∀ m b, m ≠ n → p.reservation m = some b → b.overlaps r.bank = false) →
                p.validate n r = .ok (.transfer (if r.kind = 1 then .once else .every) ⟨r.device, h⟩))))))) ∧
  (∀ r : Request,
    let legs := r.legs.take r.legCount
    let total := fun op : Nat => ((legs.filter (fun l => l.op == op)).map LegField.length).sum
    (r.legsLegal = true ↔ (1 ≤ r.legCount ∧ r.legCount ≤ 4) ∧
        (∀ l ∈ legs, (l.op = 1 ∧ 1 ≤ l.length ∧ l.length ≤ 44 ∧ l.offset + l.length ≤ 44) ∨ (l.op = 2 ∧ 1 ≤ l.length)) ∧
        total 1 ≤ 44 ∧ total 2 ≤ 18) ∧
      (r.bankLegal = true ↔ r.bankCount ≤ 64 ∧ (r.bankCount ≠ 0 → r.bankFirst + r.bankCount ≤ 512) ∧
        ((∃ l ∈ legs, l.op = 2) → r.bankCount ≠ 0)) ∧
      ∀ a b : Bank, a.overlaps b = true ↔ ∃ slot : Nat, (a.first ≤ slot ∧ slot < a.first + a.count) ∧
        (b.first ≤ slot ∧ slot < b.first + b.count)) ∧
  ∀ e : DeviceEntry, e.usable = true ↔
    e.present = true ∧ e.port ≤ 3 ∧
      (e.port < 2 →
        (if e.tenBit then e.address ≤ 1023 else 0x08 ≤ e.address ∧ e.address ≤ 0x77) ∧ e.speed ≤ 2) ∧
      (2 ≤ e.port → e.address ≤ 3 ∧ e.mode ≤ 3) ∧ e.retryLimit ≤ 7 ∧ e.threshold ≤ 15 ∧ (e.standby ≤ 63 ∨ e.standby = 0xFF) ∧
      1 ≤ e.reply

/-- A visit that takes in a card which fails validation: the card is REJECTED under the order's generation with the check's code, its
progress word with debt 0 and device used 0xFF, its done bit and CAUSE.DONE set, and its reservation ended; its other progress fields are
at their new-generation values, or as they stood where the posting was already WAITING.  A CARD_REJECTED record is asked for, and lost at
a full queue.  No other done bit, latch or count and no context changes. -/
def Obligations.VisitRejectsInvalidCard : Prop :=
  ∀ (s : State) (n : CardIx) (g : Byte) (retried : Bool) (code : ResultCode) (dataHigh : Bool) (h : n.val + 1 < 96),
    s.part.memoryCanonical → s.part.run.state = .running → s.part.intake.pos = some n → s.part.intake.control = none →
    s.part.ctx n = none → decideVisit (orderOf s.part.rep.mem n) (s.part.recorded n) = .intake g retried →
    (s.part.report (fun r => r.clearDone n)).validate n (readRequest s.part.rep.mem n) = .error code →
    let r := s.part.rep
    let full := 16 ≤ r.queue.length
    let lost := if r.logLost = 0xFFFF#16 then 0xFFFF#16 else r.logLost + 1#16
    let record := { FaultRecord.bare .cardRejected s.part.time.count with result := code, card := some n, generation := g }
    ∃ m : Memory,
      let r' :=
        { r with
          mem := m, done := r.done ||| (1#96 <<< n.val)
          queue := if full then r.queue else r.queue ++ [record]
          logLost := if full then lost else r.logLost
          cause := if full then r.cause ||| 0x05#8 else r.cause ||| 0x01#8 }
      exec (.visit dataHigh) s = .next
        { s with part :=
          { s.part with
            rep := r'
            waiting := s.part.waiting.set n.val none n.isLt
            intake := { s.part.intake with pos := some ⟨n.val + 1, h⟩ } } } ∧
      ({ s.part with rep := r' }).cardEnded n g .rejected code ∧
      m.word (Addr.progress n) = Word.ofBytes g (byteOf (7 + 8 * code.code)) 0x00#8 0xFF#8 ∧
      (∀ a : Nat, Addr.progress n + 4 ≤ a → a < Addr.progress n + 32 →
        m.get a = if retried then r.mem.get a else 0#8) ∧
      (full → m.word 0x0048 = Word.ofHalves r.appendCount.low lost) ∧
      ∀ a : Nat, ¬Addr.ofCardReport n a → ¬(full ∧ 0x0048 ≤ a ∧ a < 0x004C) → m.get a = r.mem.get a

/-- A visit that takes in a valid transfer card, posted anew or WAITING already.  With a context free and its base after the time count the
card is ACCEPTED under the order's generation with its done bit clear, its progress fields zero, or as they stood where it was WAITING; its
context holds the fields of the request, and is that of instance 0, SLEEPING, its due arrival armed for the base, every tally, counter and
mark at 0 or clear (the resolved device and mark before the first resolution are the model's choice, log 40).  With its base due already,
and neither a window to run out nor a further instance due, instance 0 stands on the ready list of its resolved device's port, its window
measured from the acceptance.  With all 32 contexts held the card enters WAITING: its bank is reserved and CAUSE.BACKLOG set; a card that
is WAITING already stays so, and only its done bit and its reservation are written. -/
def Obligations.VisitTakesInTransferCard : Prop :=
  ∀ (s : State) (n : CardIx) (g : Byte) (retried : Bool) (kind : TransferKind) (d : DevIx) (dataHigh : Bool) (h : n.val + 1 < 96),
    s.part.memoryCanonical → s.part.run.state = .running → s.part.intake.pos = some n → s.part.intake.control = none →
    s.part.ctx n = none → decideVisit (orderOf s.part.rep.mem n) (s.part.recorded n) = .intake g retried →
    let q := readRequest s.part.rep.mem n
    let now := s.part.time.count
    let base := if q.flags.getLsbD 0 then now else q.due
    let period := if kind = .every then q.period else 0#32
    let count := if kind = .every then q.count else 0
    (s.part.report (fun r => r.clearDone n)).validate n q = .ok (.transfer kind d) →
    let c : Context :=
      { generation := g, kind := kind, priority := q.priority
        flags :=
          { now := q.flags.getLsbD 0, catchUp := q.flags.getLsbD 1, keepNewest := q.flags.getLsbD 2
            stopOnError := q.flags.getLsbD 3, setting := q.flags.getLsbD 4, notify := q.flags.getLsbD 5 }
        device := d
        legs := (q.legs.take q.legCount).map (fun l =>
          { op := if l.op = 1 then .write else .read, length := l.length, offset := l.offset })
        inline := q.inline, bankFirst := q.bankFirst, bankCount := q.bankCount, base := base, period := period, count := count
        window := q.window, k := 0#32, phase := .sleeping, j := 0#32, nextArrival := base, armed := true, started := false
        late := false, catchUpRun := false, fromRetry := false, retryTally := 0, yieldTally := 0, windowExpiry := none
        gapExpiry := none, resolved := d, substituted := false, run := 0#32, missed := 0#32, failed := 0#32, debt := 0
        withdrawalPending := false, pendingEnd := .none, active := false, made := 0#16, lost := 0#16, position := 0
        retriesTotal := 0#16, yieldsTotal := 0#16, deviceUsed := 0xFF#8, last := none }
    let again := kind == .every && !(count != 0 && 1#32 == BitVec.ofNat 32 count)
    let window := if q.window = 0 then none else some (now + BitVec.ofNat 32 q.window)
    let done := s.part.rep.done &&& ~~~(1#96 <<< n.val)
    let written := fun (m : Memory) (state : Byte) =>
      m.word (Addr.progress n) = Word.ofBytes g state 0x00#8 0xFF#8 ∧
        (∀ a : Nat, Addr.progress n + 4 ≤ a → a < Addr.progress n + 32 → m.get a = if retried then s.part.rep.mem.get a else 0#8) ∧
        ∀ a : Nat, ¬Addr.ofCardReport n a → m.get a = s.part.rep.mem.get a
    let taken := fun (m : Memory) (x : Context) =>
      { s with part :=
        { s.part with
          rep := { s.part.rep with mem := m, done := done }
          ctxs := s.part.ctxs.set n.val (some x) n.isLt
          waiting := s.part.waiting.set n.val none n.isLt
          intake := { s.part.intake with pos := some ⟨n.val + 1, h⟩ } } }
    (s.part.heldContexts < 32 → Time.atOrAfter now base = false →
      ∃ m : Memory, exec (.visit dataHigh) s = .next (taken m c) ∧ written m 0x02#8) ∧
      (∀ r : Resolution, s.part.heldContexts < 32 → Time.atOrAfter now base = true → s.part.resolve d = .ok r →
        (∀ e, window = some e → Time.atOrAfter now e = false) → (again = true → Time.atOrAfter now (base + period) = false) →
        ∃ m : Memory,
          exec (.visit dataHigh) s = .next (taken m
            { c with
              j := 1#32, nextArrival := base + period, armed := again, phase := .waiting r.port, resolved := r.device
              substituted := r.substituted, windowExpiry := window }) ∧
          written m 0x02#8) ∧
      (32 ≤ s.part.heldContexts →
        ∃ m : Memory,
          exec (.visit dataHigh) s = .next
            { s with part :=
              { s.part with
                rep :=
                  { s.part.rep with
                    mem := m, done := done, cause := if retried then s.part.rep.cause else s.part.rep.cause ||| 0x08#8 }
                waiting := s.part.waiting.set n.val (some { first := q.bankFirst, count := q.bankCount }) n.isLt
                intake := { s.part.intake with pos := some ⟨n.val + 1, h⟩ } } } ∧
          (retried = false → written m 0x01#8) ∧
          (retried = true →
            ∀ a : Nat, ¬(0x0050 + 4 * (n.val / 32) ≤ a ∧ a < 0x0050 + 4 * (n.val / 32) + 4) → m.get a = s.part.rep.mem.get a))

/-- A withdrawal by a visit, for a card before the last (after card 95 the sweep completes): a card that is ACCEPTED, or ACTIVE with its
instance not RUNNING (Table 3-4), ends at once WITHDRAWN with WITHDRAWN_BY_ORDER and frees its context; one whose instance is RUNNING takes
the pending end, unless one is set; a WAITING card, which holds no context, ends WITHDRAWN in the same way and its bank is free again. -/
def Obligations.VisitWithdrawsCard : Prop :=
  (∀ (s : State) (n : CardIx) (c : Context) (dataHigh : Bool) (h : n.val + 1 < 96), s.part.memoryCanonical →
    s.part.run.state = .running → s.part.intake.pos = some n → s.part.intake.control = none → s.part.ctx n = some c →
    decideVisit (orderOf s.part.rep.mem n) (s.part.recorded n) = .withdraw →
    (c.active = false ∨ c.phase ≠ .running →
      ∃ (m : Memory) (done : BitVec 96),
        let r := { s.part.rep with mem := m, done := done, cause := s.part.rep.cause ||| 0x01#8 }
        exec (.visit dataHigh) s = .next
          { s with part :=
            { s.part with
              rep := r
              ctxs := s.part.ctxs.set n.val none n.isLt
              intake := { s.part.intake with pos := some ⟨n.val + 1, h⟩ } } } ∧
        ({ s.part with rep := r, ctxs := s.part.ctxs.set n.val none n.isLt }).cardEnded n c.generation .withdrawn
          .withdrawnByOrder ∧
        ∀ a : Nat, ¬Addr.ofCardReport n a → m.get a = s.part.rep.mem.get a) ∧
      (c.active = true → c.phase = .running →
        exec (.visit dataHigh) s = .next
          { s with part :=
            { s.part with
              ctxs := s.part.ctxs.set n.val
                (some
                  { c with withdrawalPending := true
                           pendingEnd := if c.pendingEnd = .none then .withdrawn else c.pendingEnd }) n.isLt
              intake := { s.part.intake with pos := some ⟨n.val + 1, h⟩ } } })) ∧
  ∀ (s : State) (n : CardIx) (g : Byte) (dataHigh : Bool) (h : n.val + 1 < 96), s.part.memoryCanonical →
    s.part.run.state = .running → s.part.intake.pos = some n → s.part.intake.control = none → s.part.ctx n = none →
    s.part.recorded n = .waiting g → decideVisit (orderOf s.part.rep.mem n) (.waiting g) = .withdraw →
    ∃ m : Memory,
      let r :=
        { s.part.rep with mem := m, done := s.part.rep.done ||| (1#96 <<< n.val), cause := s.part.rep.cause ||| 0x01#8 }
      exec (.visit dataHigh) s = .next
        { s with part :=
          { s.part with
            rep := r
            waiting := s.part.waiting.set n.val none n.isLt
            intake := { s.part.intake with pos := some ⟨n.val + 1, h⟩ } } } ∧
      ({ s.part with rep := r }).cardEnded n g .withdrawn .withdrawnByOrder ∧
      m.word (Addr.progress n) = Word.ofBytes g (byteOf (6 + 8 * 16)) 0x00#8 0xFF#8 ∧
      ∀ a : Nat, (Addr.progress n + 4 ≤ a ∧ a < Addr.progress n + 32) ∨ ¬Addr.ofCardReport n a → m.get a = s.part.rep.mem.get a

/-- SUBSTITUTE and RESTORE cards: a SUBSTITUTE of a device that is not FENCED, with a usable standby and room in the map, enters the
pair and ends OK; one with an unusable standby fails DEVICE_INVALID; a RESTORE of a device that no instance waits for makes it HEALTHY
with count 0, without guard and without its entry, and ends OK, or NOTHING_TO_DO where there is nothing to restore.  Not stated here: a
pair that replaces another, a full map, and the re-resolutions under a fenced primary and at a RESTORE with instances waiting. -/
def Obligations.ControlCardsChangeDevices : Prop :=
  ∀ (s : State) (n : CardIx) (g : Byte) (d : DevIx) (dataHigh : Bool) (h : n.val + 1 < 96), s.part.memoryCanonical →
    s.part.run.state = .running → s.part.intake.pos = some n → s.part.intake.control = none → s.part.ctx n = none →
    decideVisit (orderOf s.part.rep.mem n) (s.part.recorded n) = .intake g false →
    let p := s.part.report (fun r => r.clearDone n)
    let after := fun (u : DeviceUnit) (r : Reports) =>
      { s.part with
        rep := r, dev := u, waiting := s.part.waiting.set n.val none n.isLt
        intake := { s.part.intake with pos := some ⟨n.val + 1, h⟩ } }
    (∀ b : DevIx, p.validate n (readRequest s.part.rep.mem n) = .ok (.substitute d b.val) → p.usableStandby b = true → b ≠ d →
      s.part.dev.isFenced d = false → s.part.dev.standbyOf d = none → s.part.dev.subst.length < 8 →
      let u := { s.part.dev with subst := s.part.dev.subst ++ [(d, b)] }
      ∃ r : Reports, exec (.visit dataHigh) s = .next { s with part := after u r } ∧ (after u r).cardEnded n g .ended .ok ∧
        r.mem.word (Addr.status d) = u.statusWord d) ∧
      (∀ aux : Nat, p.validate n (readRequest s.part.rep.mem n) = .ok (.substitute d aux) →
        (∀ b : DevIx, b.val = aux → b = d ∨ p.usableStandby b = false) →
        ∃ r : Reports, exec (.visit dataHigh) s = .next { s with part := after s.part.dev r } ∧
          (after s.part.dev r).cardEnded n g .failed .deviceInvalid) ∧
      (p.validate n (readRequest s.part.rep.mem n) = .ok (.restore d) → s.part.dev.restorable d = true →
        (∀ m c, s.part.ctx m = some c → c.device = d → c.isWaiting = false) →
        let u :=
          { recs := s.part.dev.recs.set d.val { health := .healthy, faults := 0, guard := none } d.isLt
            subst := s.part.dev.subst.filter (fun e => !(e.1 == d)) : DeviceUnit }
        ∃ r : Reports, exec (.visit dataHigh) s = .next { s with part := after u r } ∧ (after u r).cardEnded n g .ended .ok) ∧
      (p.validate n (readRequest s.part.rep.mem n) = .ok (.restore d) → s.part.dev.restorable d = false →
        ∃ r : Reports, exec (.visit dataHigh) s = .next { s with part := after s.part.dev r } ∧
          (after s.part.dev r).cardEnded n g .ended .nothingToDo)

/-- A PORT_CLEAR card of a fenced port: a two-wire port whose data line reads high, and a four-wire port whose SENSE is deasserted,
leaves FENCED and the card ends OK; a four-wire port whose SENSE is asserted stays FENCED and the card fails PORT_FENCED; a two-wire
port whose data line reads low recovers, its fenced indication kept, and the card's execution goes on; a port that is not fenced is
not disturbed and the card ends NOTHING_TO_DO. -/
def Obligations.PortClearCardClearsFence : Prop :=
  ∀ (s : State) (n : CardIx) (g : Byte) (port : PortIx) (dataHigh : Bool), n.val + 1 < 96 → s.part.memoryCanonical →
    s.part.run.state = .running → s.part.intake.pos = some n → s.part.intake.control = none → s.part.ctx n = none →
    decideVisit (orderOf s.part.rep.mem n) (s.part.recorded n) = .intake g false →
    (s.part.report (fun r => r.clearDone n)).validate n (readRequest s.part.rep.mem n) = .ok (.portClear port) →
    ∃ t : State, exec (.visit dataHigh) s = .next t ∧
      (s.part.portFenced port = false →
        t.part.two = s.part.two ∧ t.part.four = s.part.four ∧ t.part.cardEnded n g .ended .nothingToDo) ∧
      (∀ q : TwoIx, port = twoPort q → (s.part.twoAt q).state = .fenced →
        (dataHigh = true → t.part.portFenced port = false ∧ t.part.cardEnded n g .ended .ok) ∧
        (dataHigh = false → t.part.portFenced port = true ∧ t.part.intake.pos = some n ∧
          t.part.intake.control = some { card := n, generation := g, port := q } ∧
          (t.part.twoAt q).state =
            .recovering { cause := .portClear, since := s.part.time.count, limit := s.part.holdLimitUs, changes := [] })) ∧
      (∀ q : FourIx, port = fourPort q → (s.part.fourAt q).state = .fenced →
        ((s.part.fourAt q).sense = false → (t.part.fourAt q).state = .idle ∧ t.part.cardEnded n g .ended .ok) ∧
        ((s.part.fourAt q).sense = true →
          (t.part.fourAt q).state = .fenced ∧ t.part.cardEnded n g .failed .portFenced))

/-! ### The schedule -/

/-- Resolution (R73): the first step that decides gives the answer. -/
def Obligations.ResolutionSteps : Prop :=
  ∀ (s : State) (d : DevIx),
    let p := s.part
    let entry := fun x => readEntry p.rep.mem x
    let answer := fun (x : DevIx) (substituted : Bool) =>
      if p.portFenced (entry x).portIx then (.error .portFenced : Except ResultCode Resolution)
      else .ok { device := x, port := (entry x).portIx, entry := entry x, substituted := substituted }
    (((entry d).present && (entry d).legal) = false → p.resolve d = .error .deviceInvalid) ∧
      ((entry d).present = true → (entry d).legal = true →
        ((p.dev.get d).health ≠ .fenced → p.resolve d = answer d false) ∧
        ((p.dev.get d).health = .fenced →
          (∀ b, p.dev.standbyOf d = some b → (entry b).present = true → (entry b).legal = true →
            (p.dev.get b).health ≠ .fenced → p.resolve d = answer b true) ∧
          ((∀ b, p.dev.standbyOf d = some b →
              (entry b).present = false ∨ (entry b).legal = false ∨ (p.dev.get b).health = .fenced) →
            p.resolve d = .error .deviceFenced)))

/-- The due arrival of the current instance: the arrival number advances by 1 and the next arrival is armed a period later, unless the
card is ONCE or its count is reached; the instance becomes WAITING on the ready list of the port of its resolved device, with its
window armed from its due time.  (The window has not run out and the next arrival is not yet due at this step.) -/
def Obligations.DueArrivalJoinsReadyList : Prop :=
  ∀ (s : State) (n : CardIx) (c : Context) (r : Resolution), (s.part.run.state = .running ∨ s.part.run.state = .quiescing) →
    s.part.ctx n = some c → c.phase = .sleeping → c.armed = true → c.pendingEnd = .none →
    Time.atOrAfter s.part.time.count c.nextArrival = true → s.part.resolve c.device = .ok r →
    let window := if c.window = 0 then none else some (c.nextArrival + BitVec.ofNat 32 c.window)
    let again := c.kind == .every && !(c.count != 0 && c.j + 1#32 == BitVec.ofNat 32 c.count)
    (∀ e, window = some e → Time.atOrAfter s.part.time.count e = false) →
    (again = true → Time.atOrAfter s.part.time.count (c.nextArrival + c.period) = false) →
    exec (.dueArrival n) s = .next
      { s with part := (s.part.setCtx n (some
        { c with
          j := c.j + 1#32, nextArrival := c.nextArrival + c.period, armed := again, phase := .waiting r.port
          resolved := r.device, substituted := r.substituted, windowExpiry := window, gapExpiry := none })) }

/-- An overtake: under CATCH_UP with the debt below 6 the debt rises by 1 and the arrival number advances; without CATCH_UP, with the
current instance RUNNING, started or between retries, the arrived instance is counted as missed, and with it WAITING and not started the
current one is missed and the arrived one takes its place on the ready list of its resolved device's port, with its window from its own
due time; at debt 6 a card whose instance is not RUNNING ends FAILED with DEBT_LIMIT, and one whose instance is RUNNING takes the pending
end, in both cases with a DEBT_LIMIT record asked for. -/
def Obligations.OvertakeOwedMissedOrLimit : Prop :=
  ∀ (s : State) (n : CardIx) (c : Context), (s.part.run.state = .running ∨ s.part.run.state = .quiescing) →
    s.part.ctx n = some c → c.kind = .every → c.phase ≠ .sleeping → c.armed = true → c.pendingEnd = .none →
    Time.atOrAfter s.part.time.count c.nextArrival = true →
    let again := !(c.count != 0 && c.j + 1#32 == BitVec.ofNat 32 c.count)
    let record :=
      { FaultRecord.bare .debtLimit s.part.time.count with
        result := .debtLimit, device := some c.device, card := some n, generation := c.generation }
    let advanced := { c with j := c.j + 1#32, nextArrival := c.nextArrival + c.period, armed := again }
    (c.flags.catchUp = true → c.debt < 6 → (again = true → Time.atOrAfter s.part.time.count (c.nextArrival + c.period) = false) →
      let word := progressWord c.generation (if c.active then .active else .accepted) .none (c.debt + 1) c.deviceUsed
      let p := (s.part.report (fun r => r.writeProgress n word)).setCtx n (some { advanced with debt := c.debt + 1 })
      exec (.dueArrival n) s = .next { s with part := p }) ∧
      (c.flags.catchUp = false → (c.started = true ∨ c.phase = .running ∨ c.phase = .retryWait) →
        (again = true → Time.atOrAfter s.part.time.count (c.nextArrival + c.period) = false) →
        let p := (s.part.writeProgressWord n 12 (c.missed + 1#32)).setCtx n (some { advanced with missed := c.missed + 1#32 })
        exec (.dueArrival n) s = .next { s with part := p }) ∧
      (∀ (port : PortIx) (r : Resolution), c.flags.catchUp = false → c.phase = .waiting port → c.started = false →
        s.part.memoryCanonical → s.part.resolve c.device = .ok r →
        let window := if c.window = 0 then none else some (c.nextArrival + BitVec.ofNat 32 c.window)
        (∀ e, window = some e → Time.atOrAfter s.part.time.count e = false) →
        (again = true → Time.atOrAfter s.part.time.count (c.nextArrival + c.period) = false) →
        let p := (s.part.writeProgressWord n 12 (c.missed + 1#32)).setCtx n (some
          { advanced with
            k := c.j, missed := c.missed + 1#32, phase := .waiting r.port, late := false, catchUpRun := false, fromRetry := false
            retryTally := 0, yieldTally := 0, resolved := r.device, substituted := r.substituted, windowExpiry := window
            gapExpiry := none, last := none })
        exec (.dueArrival n) s = .next { s with part := p }) ∧
      (c.flags.catchUp = true → 6 ≤ c.debt → c.phase = .running →
        exec (.dueArrival n) s = .next
          { s with part := ((s.part.request record).setCtx n (some { c with pendingEnd := .debtLimit })) }) ∧
      (c.flags.catchUp = true → 6 ≤ c.debt → c.phase ≠ .running → s.part.memoryCanonical →
        ∃ t : State, exec (.dueArrival n) s = .next t ∧ t.part.cardEnded n c.generation .failed .debtLimit ∧
          t.part.rep.queue = (s.part.request record).rep.queue ∧ t.part.two = s.part.two ∧ t.part.four = s.part.four ∧
          ∀ m, m ≠ n → t.part.ctx m = s.part.ctx m)

/-- A window expiry of a WAITING, unstarted instance: under CATCH_UP it takes the late mark and stays (R54); a ONCE card ends FAILED with
LATE, its instance missed (R53); an EVERY card without CATCH_UP counts the miss and goes on with instance j, SLEEPING, its due time not
come (its resolved device and substituted mark before the first resolution are the model's choice, log 40).  The end of a card whose count the miss uses up is left out. -/
def Obligations.WindowExpiryLateOrMissed : Prop :=
  ∀ (s : State) (n : CardIx) (c : Context) (port : PortIx) (e : Time),
    (s.part.run.state = .running ∨ s.part.run.state = .quiescing) → s.part.ctx n = some c → c.phase = .waiting port →
    c.started = false → c.windowExpiry = some e → Time.atOrAfter s.part.time.count e = true →
    (c.kind = .every → c.flags.catchUp = true →
      exec (.windowExpiry n) s = .next { s with part := (s.part.setCtx n (some { c with late := true, windowExpiry := none })) }) ∧
      (c.kind = .once → s.part.memoryCanonical →
        ∃ t : State, exec (.windowExpiry n) s = .next t ∧ t.part.cardEnded n c.generation .failed .late ∧
          t.part.rep.mem.word (Addr.progress n + 12) = c.missed + 1#32 ∧ t.part.two = s.part.two ∧ t.part.four = s.part.four ∧
          (∀ m, m ≠ n → t.part.ctx m = s.part.ctx m) ∧
          ∀ a : Nat, ¬Addr.ofCardReport n a → t.part.rep.mem.get a = s.part.rep.mem.get a) ∧
      (c.kind = .every → c.flags.catchUp = false →
        (c.count = 0 ∨ c.run + (c.missed + 1#32) ≠ BitVec.ofNat 32 c.count) →
        (c.armed = true → c.pendingEnd = .none → Time.atOrAfter s.part.time.count c.nextArrival = false) →
        let next := { c.serve c.j with missed := c.missed + 1#32, phase := .sleeping }
        exec (.windowExpiry n) s = .next
          { s with part := ((s.part.writeProgressWord n 12 (c.missed + 1#32)).setCtx n (some next)) })

/-- A gap expiry: the instance is resolved again and becomes WAITING on the ready list of the resolved device's port, keeping its
marks and its tallies, with no window armed. -/
def Obligations.GapExpiryReturnsToReadyList : Prop :=
  ∀ (s : State) (n : CardIx) (c : Context) (e : Time) (r : Resolution),
    (s.part.run.state = .running ∨ s.part.run.state = .quiescing) → s.part.ctx n = some c → c.phase = .retryWait →
    c.gapExpiry = some e → Time.atOrAfter s.part.time.count e = true → s.part.resolve c.device = .ok r →
    exec (.gapExpiry n) s = .next
      { s with part := (s.part.setCtx n (some
        { c with
          phase := .waiting r.port, fromRetry := true, resolved := r.device, substituted := r.substituted
          windowExpiry := none, gapExpiry := none })) }

/-- The arbiter's choice among the eligible instances of a ready list (those WAITING on it whose resolved device is not under guard):
the lowest priority number, then the greatest age, then the lowest card index. -/
def Obligations.ArbiterChoosesByPriorityAgeIndex : Prop :=
  ∀ (s : State) (port : PortIx),
    let p := s.part
    (∀ x : Candidate, x ∈ p.candidates port ↔
      p.ctx x.card = some x.ctx ∧ x.ctx.phase = .waiting port ∧ (p.dev.get x.ctx.resolved).guard = none) ∧
      (p.best (p.candidates port) = none ↔ p.candidates port = []) ∧
      ∀ x : Candidate, p.best (p.candidates port) = some x →
        x ∈ p.candidates port ∧
        ∀ y ∈ p.candidates port,
          let age := fun z : Candidate => (p.time.count - (z.ctx.base + z.ctx.k * z.ctx.period)).toNat
          x.ctx.priority < y.ctx.priority ∨
            (x.ctx.priority = y.ctx.priority ∧ (age y < age x ∨ (age y = age x ∧ x.card ≤ y.card)))

/-- A choice whose resolution gives a device on the port, not under guard, begins the attempt: the instance becomes RUNNING, its
progress word shows ACTIVE, and the port becomes ACTIVE with the entry read at the choice, in phase START or in phase SELECT with the
select not yet asserted, the clock at the mode's idle level and in modes 0 and 2 the first bit on data out; nothing else changes. -/
def Obligations.ArbiterChoiceBeginsAttempt : Prop :=
  ∀ (s : State) (port : PortIx) (x : Candidate) (r : Resolution), s.part.run.state = .running →
    s.part.best (s.part.candidates port) = some x → s.part.resolve x.ctx.device = .ok r → r.port = port →
    (s.part.dev.get r.device).guard = none →
    let c :=
      { x.ctx with
        phase := .running, started := true, windowExpiry := none, fromRetry := false
        retryTally := if x.ctx.fromRetry then x.ctx.retryTally + 1 else x.ctx.retryTally
        resolved := r.device, substituted := r.substituted, active := true }
    let a : Attempt :=
      { card := x.card, device := r.device, substituted := r.substituted, entry := r.entry, chosenAt := s.part.time.count
        start := none, fallback := false, number := 1 + c.retryTally + c.yieldTally }
    let rep :=
      if x.ctx.active then s.part.rep
      else s.part.rep.writeProgress x.card (progressWord c.generation .active .none c.debt c.deviceUsed)
    (∀ q : TwoIx, port = twoPort q → (s.part.twoAt q).state = .idle → (s.part.twoAt q).viewBusy = false →
      exec (.arbiterChoice port) s = .next
        { s with part :=
          { s.part with
            rep := rep
            ctxs := s.part.ctxs.set x.card.val (some c) x.card.isLt
            two := s.part.two.set q.val { s.part.twoAt q with state := .active .start a, wire := [] } q.isLt } }) ∧
      (∀ q : FourIx, port = fourPort q → (s.part.fourAt q).state = .idle → (s.part.fourAt q).sense = false →
        exec (.arbiterChoice port) s = .next
          { s with part :=
            { s.part with
              rep := rep
              ctxs := s.part.ctxs.set x.card.val (some c) x.card.isLt
              four := s.part.four.set q.val
                { s.part.fourAt q with
                  state := .active (.select false) a
                  wire := .clockIdle (decide (2 ≤ r.entry.mode)) ::
                    (if r.entry.mode = 1 ∨ r.entry.mode = 3 then []
                     else (((outBits r.entry (c.fourSlots r.entry)).head?).map BusItem.dataOut).toList) } q.isLt } })

/-- The expiry of a device's guard clears the guard and writes the device's status word; nothing else changes. -/
def Obligations.GuardExpiryClearsGuard : Prop :=
  ∀ (s : State) (d : DevIx) (e : Time), (s.part.dev.get d).guard = some e → Time.atOrAfter s.part.time.count e = true →
    let u := s.part.dev.put d { s.part.dev.get d with guard := none }
    exec (.guardExpiry d) s = .next
      { s with part :=
        { s.part with
          dev := u
          rep := { s.part.rep with mem := s.part.rep.mem.setWord (Addr.status d) (u.statusWord d) } } }

/-! ### Two-wire ports -/

/-- The bytes of a two-wire leg in order: its address bytes by address size and direction (Table 5-3); a WRITE leg's inline data and,
with CHECK, its check byte; a READ leg's received bytes, the last refused without CHECK and all acknowledged with it, and then the
device's check byte. -/
def Obligations.TwoWireLegBytes : Prop :=
  ∀ (c : Context) (e : DeviceEntry) (l : Nat) (leg : Leg),
    let kinds := (c.twoLegSlots e leg l).map Slot.kind
    let head := fun r : Nat => byteOf (0xF0 + 2 * (e.address / 256 % 4) + r)
    let low := byteOf (e.address % 256)
    let address : List Byte :=
      if e.tenBit then (if leg.op = .write then [head 0, low] else [head 0, low, head 1])
      else (if leg.op = .write then [byteOf (2 * e.address)] else [byteOf (2 * e.address + 1)])
    let data := (c.inline.drop leg.offset).take leg.length
    (leg.op = .write →
      kinds = address.map SlotKind.address ++ data.map SlotKind.out ++ (if e.check then [SlotKind.out (crc8 data)] else [])) ∧
      (leg.op = .read →
        kinds = address.map SlotKind.address ++
          (if e.check then List.replicate leg.length (SlotKind.read true) ++ [SlotKind.readCheck]
           else List.replicate (leg.length - 1) (SlotKind.read true) ++ List.replicate (min 1 leg.length) (SlotKind.read false)))

/-- The part drives its start condition once the bus-free interval of the device's speed has passed since the last stop, with the view
FREE; it asserts the select once the deselect interval of 1 us and a bit time at the idle level have passed, and begins phase DATA once
the select lead has passed.  The start stamp is the time count at the start or the assertion; nothing else changes.  Each interval is
measured by the port on its bus clocks and comes with the event, named by the time count at which it began (the model's reading, log 12).
A four-wire port drives its clock and data out, and the one select from its assertion, only while it is ACTIVE (Table 6-1): in phase SELECT
the clock at the mode's idle level and in modes 0 and 2 the first bit; a two-wire port drives nothing before its start.  In phase DATA the
bits of the bytes cross most significant first, each with one edge that leaves the idle level and one that returns to it, sampled at the
first edge in modes 0 and 2 and at the second in modes 1 and 3 (Table 6-2). -/
def Obligations.AttemptsStartAfterTheirIntervals : Prop :=
  (∀ (s : State) (p : TwoIx) (a : Attempt) (free : Measure),
      let t := s.part.twoAt p
      let interval := if a.entry.speed = 0 then 5000 else if a.entry.speed = 1 then 2000 else 1000
      t.state = .active .start a → a.start = none → t.viewBusy = false → free.since = t.lastStop → interval ≤ free.ns →
      exec (.driveStartCondition { port := p, interval := free }) s = .next
        { s with part := (s.part.setTwo p
          { t with
            state := .active .address { a with start := some s.part.time.count, fallback := s.part.time.source == .fallback }
            viewBusy := true, measureFrom := s.part.time.count, wire := [.start] }) }) ∧
  (∀ (s : State) (q : FourIx) (a : Attempt),
      let t := s.part.fourAt q
      let now := s.part.time.count
      (∀ deselected idle : Measure, t.state = .active (.select false) a → deselected.since = t.lastDeselect → 1000 ≤ deselected.ns →
        idle.since = a.chosenAt → (a.entry.speed + 1) * 20 ≤ idle.ns →
        exec (.selectAssert { port := q, deselected := deselected, idle := idle }) s = .next
          { s with part := (s.part.setFour q
            { t with
              state := .active (.select true) { a with start := some now, fallback := s.part.time.source == .fallback }
              wire := t.wire ++ [.select a.entry.address] }) }) ∧
        (∀ (start : Time) (lead : Measure), t.state = .active (.select true) a → a.start = some start → lead.since = start →
          1000 * a.entry.reply ≤ lead.ns →
          exec (.selectLeadEnd { port := q, interval := lead }) s = .next
            { s with part := (s.part.setFour q { t with state := .active .data a }) })) ∧
  (∀ (s : Part) (q : FourIx),
      (∀ phase a, (s.fourAt q).state ≠ .active phase a) →
        s.fourLines q = { clock := .released, dataOut := .released, asserted := none }) ∧
  (∀ (s : Part) (q : FourIx) (a : Attempt) (c : Context) (asserted : Bool) (h : a.entry.address < 4),
      (s.fourAt q).state = .active (.select asserted) a → s.ctx a.card = some c → a.entry.mode ≤ 3 →
      (s.fourLines q).clock = (if 2 ≤ a.entry.mode then .high else .low) ∧
        (s.fourLines q).asserted = (if asserted then some ⟨a.entry.address, h⟩ else none) ∧
        ∀ bit : Bool, (a.entry.mode = 0 ∨ a.entry.mode = 2) → (outBits a.entry (c.fourSlots a.entry)).head? = some bit →
          (s.fourLines q).dataOut = if bit then .high else .low) ∧
  (∀ t : TwoWire, t.startedAttempt = none → t.recovery = none → t.lines = { clock := .released, data := .released }) ∧
  ∀ (e : DeviceEntry) (slots : List Slot), e.mode ≤ 3 →
    (∀ (j i : Nat) (slot : Slot), slots[j]? = some slot → i < 8 →
      (outBits e slots)[8 * j + i]? = some ((slot.shiftedOut e.fill).getLsbD (7 - i))) ∧
      ∀ (i : Nat) (bit : Bool), (outBits e slots)[i]? = some bit →
        let idle := decide (2 ≤ e.mode)
        let first := e.mode == 0 || e.mode == 2
        ∃ leave back : ClockEdge, (attemptEdges e slots)[2 * i]? = some leave ∧ (attemptEdges e slots)[2 * i + 1]? = some back ∧
          leave.high = !idle ∧ back.high = idle ∧ leave.samples = first ∧ back.samples = !first ∧
          leave.presents = (if first then none else some bit) ∧ back.presents = (if first then (outBits e slots)[i + 1]? else none)

/-- The bus monitor, on a port with no attempt whose start is still to be driven: a start makes the view BUSY, and an IDLE port in
RUNNING, QUIESCING or STOPPED enters HELD with its hold timer started, a port in another state keeping it; a stop makes the view FREE and is
the last stop, and so frees a HELD port; 100 us with both lines high free the view of a port that drives nothing; a fall of a line restarts
that measure.  The 100 us are measured on the port's bus clocks and come with the event, named by the time count at which they began (the
model's reading, log 12). -/
def Obligations.BusMonitorFollowsConditions : Prop :=
  ∀ (s : State) (p : TwoIx), s.part.host.resetAsserted = false →
    let t := s.part.twoAt p
    let now := s.part.time.count
    let live := s.part.run.state = .running ∨ s.part.run.state = .quiescing ∨ s.part.run.state = .stopped
    (∀ h : Header, t.state = .idle → live → s.part.intake.header = some h →
      exec (.startCondition p) s = .next
        { s with part := (s.part.setTwo p
          { t with state := .held, viewBusy := true, measureFrom := now
                   holdTimer := some (now + BitVec.ofNat 32 (1000 * h.holdLimit)) }) }) ∧
      ((t.state ≠ .idle ∧ t.pendingStart = none) ∨ (t.state = .idle ∧ t.holdTimer = none ∧ ¬live) →
        exec (.startCondition p) s = .next
          { s with part := (s.part.setTwo p { t with viewBusy := true, measureFrom := now }) }) ∧
      (t.state = .held →
        exec (.stopCondition p) s = .next
          { s with part := (s.part.setTwo p { t with state := .idle, viewBusy := false, lastStop := now, holdTimer := none }) }) ∧
      (t.state ≠ .held →
        exec (.stopCondition p) s = .next
          { s with part := (s.part.setTwo p { t with viewBusy := false, lastStop := now }) }) ∧
      (∀ high : Measure, t.viewBusy = true → high.since = t.measureFrom → 100000 ≤ high.ns →
        (t.state = .held →
          exec (.busFreeTime { port := p, interval := high }) s = .next
            { s with part := (s.part.setTwo p { t with state := .idle, viewBusy := false, holdTimer := none }) }) ∧
        (t.state = .idle ∨ t.state = .fenced →
          exec (.busFreeTime { port := p, interval := high }) s = .next
            { s with part := (s.part.setTwo p { t with viewBusy := false }) })) ∧
      exec (.busLineFall p) s = .next { s with part := (s.part.setTwo p { t with measureFrom := now }) }

/-- DONE on a two-wire port: a stop is driven and the port is IDLE with the view FREE, whatever the card; the time, the host, the sweep, the
reservations and the other ports stand.  With an instance of a card without a bank: the progress half shows the stamps and the device and
counts the run, a ONCE card ends ENDED with OK, and an EVERY card whose count is used up ends ENDED with OK, or OK_WITH_GAPS where an
instance was missed or failed; an EVERY card in debt goes on with instance k + 1 on its ready list, the debt one less, with the catch-up
mark and no window.  The device is HEALTHY with count 0, or stays FENCED with its count, and under SETTING with a nonzero guard time is
under guard from the end stamp.  No other byte, done bit, latch, count, card or device changes. -/
def Obligations.TwoWireDoneEndsOnceCard : Prop :=
  (∀ (s : State) (p : TwoIx) (a : Attempt) (start : Time) (c : Context) (data : List Byte), s.part.carriesOut p a start c →
    data.length = c.readTotal →
    ∃ (t : State) (wire : List BusItem), exec (.twoWireDone p data) s = .next t ∧ wire.head? = some .start ∧
      wire.getLast? = some .stop ∧ t.pending = s.pending ∧
      t.part.two = s.part.two.set p.val ((s.part.twoAt p).afterStop s.part.time.count wire) p.isLt ∧ t.part.time = s.part.time ∧
      t.part.host = s.part.host ∧ t.part.intake = s.part.intake ∧ t.part.waiting = s.part.waiting ∧ t.part.four = s.part.four ∧
      t.part.freeCount = s.part.freeCount) ∧
  ∀ (s : State) (p : TwoIx) (a : Attempt) (start : Time) (c : Context) (data : List Byte), s.part.memoryCanonical →
    s.part.run.state = .running → s.part.carriesOut p a start c → data.length = c.readTotal → c.pendingEnd = .none →
    c.bankCount = 0 →
    let now := s.part.time.count
    let device := s.part.dev.get a.device
    let record : DeviceRecord :=
      { health := if device.health = .fenced then .fenced else .healthy
        faults := if device.health = .fenced then device.faults else 0
        guard :=
          if c.flags.setting = true ∧ a.entry.guardTime ≠ 0 then some (now + BitVec.ofNat 32 (10 * a.entry.guardTime))
          else device.guard }
    let u := s.part.dev.put a.device record
    let half := Addr.progress a.card
    let bit : BitVec 96 := 1#96 <<< a.card.val
    let used := c.run + 1#32 + c.missed = BitVec.ofNat 32 c.count
    let counted :=
      { c with
        run := c.run + 1#32, retriesTotal := c.retriesTotal.saturatingAdd c.retryTally
        yieldsTotal := c.yieldsTotal.saturatingAdd c.yieldTally, deviceUsed := byteOf a.device.val }
    let shows := fun m : Memory =>
      m.word (half + 8) = c.run + 1#32 ∧ m.word (half + 12) = s.part.rep.mem.word (half + 12) ∧
        m.word (half + 16) = s.part.rep.mem.word (half + 16) ∧
        m.word (half + 20) = Word.ofHalves counted.retriesTotal counted.yieldsTotal ∧ m.word (half + 24) = start ∧
        m.word (half + 28) = now ∧ m.word (half + 4) = s.part.rep.mem.word (half + 4) ∧
        m.word (Addr.status a.device) = (if u.statusWord a.device = s.part.dev.statusWord a.device
          then s.part.rep.mem.word (Addr.status a.device) else u.statusWord a.device)
    let after := fun (rep : Reports) (wire : List BusItem) (x : Option Context) =>
      { s.part with
        rep := rep, dev := u
        two := s.part.two.set p.val ((s.part.twoAt p).afterStop now wire) p.isLt
        ctxs := s.part.ctxs.set a.card.val x a.card.isLt }
    (∀ result : ResultCode,
        (c.kind = .once ∧ result = .ok) ∨
          (c.kind = .every ∧ c.count ≠ 0 ∧ used ∧ result = if c.missed = 0#32 ∧ c.failed = 0#32 then .ok else .okWithGaps) →
        ∃ (m : Memory) (wire : List BusItem),
          let rep := { s.part.rep with mem := m, done := s.part.rep.done ||| bit, cause := s.part.rep.cause ||| 0x01#8 }
          exec (.twoWireDone p data) s = .next { s with part := after rep wire none } ∧
            (after rep wire none).cardEnded a.card c.generation .ended result ∧
            m.word half = progressWord c.generation .ended result c.debt (byteOf a.device.val) ∧ shows m ∧
            ∀ x : Nat, ¬Addr.ofCardReport a.card x → ¬(Addr.status a.device ≤ x ∧ x < Addr.status a.device + 4) →
              m.get x = s.part.rep.mem.get x) ∧
      ∀ r : Resolution, c.kind = .every → (c.count = 0 ∨ ¬used) → c.debt ≠ 0 → s.part.resolve c.device = .ok r →
        ∃ (m : Memory) (wire : List BusItem),
          exec (.twoWireDone p data) s = .next
            { s with part :=
              (after { s.part.rep with mem := m } wire (some
                { counted.serve (c.k + 1#32) with
                  phase := .waiting r.port, debt := c.debt - 1, catchUpRun := true, resolved := r.device
                  substituted := r.substituted })) } ∧
          m.word half = progressWord c.generation (if c.active then .active else .accepted) .none (c.debt - 1)
            (byteOf a.device.val) ∧ shows m ∧
          ∀ x : Nat, ¬(half ≤ x ∧ x < half + 32) → ¬(Addr.status a.device ≤ x ∧ x < Addr.status a.device + 4) →
            m.get x = s.part.rep.mem.get x

/-- A refused address byte, or a check mismatch (on a WRITE leg the device's refusal of the check byte, on a READ leg a check byte that
differs from the CRC-8 of the leg's received bytes), on an instance with retries left: the part drives a stop, the port is IDLE with the
view FREE, the instance waits for its retry gap from the stop, and a record marked RETRIED is asked for, with the position, the last
bytes and the levels; nothing else changes.  With the retry tally at its limit, here at an address byte of a ONCE card without a bank, the
card ends FAILED with NO_ACK.  Under a pending end the instance is abandoned instead: the card ends with its pending end, the instance not
counted and no device charged. -/
def Obligations.RefusedByteRetries : Prop :=
  (∀ (s : State) (p : TwoIx) (a : Attempt) (start : Time) (c : Context) (leg i : Nat) (rx : List Byte) (levels : BitVec 2)
      (b : Before) (cur : Slot) (byte : Byte),
      s.part.run.state = .running → s.part.carriesOut p a start c → atByte a c (.address leg i) rx b cur → cur.kind = .address byte →
      retries a c →
      ∃ wire : List BusItem, wire.getLast? = some .stop ∧
        exec (.addressNack p leg i rx levels) s = .next
          { s with part :=
            (((s.part.setTwo p ((s.part.twoAt p).afterStop s.part.time.count wire)).request
              (s.part.errorRecord .addressNack (twoPort p) a c .retried .none .address (byteOf leg) (byteOf i) byte byte
                (levels.setWidth 8))).setCtx a.card (some (c.retrying a (s.part.endedNow a start)))) }) ∧
  (∀ (s : State) (p : TwoIx) (a : Attempt) (start : Time) (c : Context) (l : Leg) (leg : Nat) (rx : List Byte) (levels : BitVec 2)
      (b : Before) (cur : Slot), s.part.run.state = .running → s.part.carriesOut p a start c → c.legs[leg]? = some l →
      atByte a c (.data leg l.length) rx b cur → retries a c →
      let after := fun (got : Byte) (wire : List BusItem) =>
        ((s.part.setTwo p ((s.part.twoAt p).afterStop s.part.time.count wire)).request
          (s.part.errorRecord .checkMismatch (twoPort p) a c .retried .none .data (byteOf leg) (byteOf l.length)
            (lastAddress b.complete) got (levels.setWidth 8))).setCtx a.card (some (c.retrying a (s.part.endedNow a start)))
      (∀ byte : Byte, cur.kind = .out byte →
        ∃ wire : List BusItem, wire.getLast? = some .stop ∧
          exec (.checkMismatch p leg rx none levels) s = .next { s with part := after byte wire }) ∧
        (∀ got : Byte, cur.kind = .readCheck → got ≠ crc8 (rx.drop (rx.length - l.length)) →
          ∃ wire : List BusItem, wire.getLast? = some .stop ∧
            exec (.checkMismatch p leg rx (some got) levels) s = .next { s with part := after got wire })) ∧
  ∀ (s : State) (p : TwoIx) (a : Attempt) (start : Time) (c : Context) (leg i : Nat) (rx : List Byte) (levels : BitVec 2)
    (b : Before) (cur : Slot) (byte : Byte), s.part.memoryCanonical →
    s.part.run.state = .running → s.part.carriesOut p a start c → atByte a c (.address leg i) rx b cur → cur.kind = .address byte →
    let record := fun result : ResultCode =>
      s.part.errorRecord .addressNack (twoPort p) a c .ending result .address (byteOf leg) (byteOf i) byte byte (levels.setWidth 8)
    let queue := fun result : ResultCode => (s.part.rep.request .running s.part.logLevel (record result)).queue
    let device := s.part.dev.get a.device
    let faults := min 15 (device.faults + 1)
    (c.kind = .once → c.pendingEnd = .none → c.bankCount = 0 → a.entry.retryLimit ≤ c.retryTally → device.health ≠ .fenced →
      (a.entry.threshold = 0 ∨ faults < a.entry.threshold) →
      ∃ t : State, exec (.addressNack p leg i rx levels) s = .next t ∧ t.part.cardEnded a.card c.generation .failed .noAck ∧
        (t.part.twoAt p).state = .idle ∧ t.part.dev = s.part.dev.put a.device { device with health := .suspect, faults := faults } ∧
        t.part.rep.mem.word (Addr.progress a.card + 16) = c.failed + 1#32 ∧ t.part.rep.queue = queue .noAck) ∧
      ∀ (state : ProgressState) (result : ResultCode), c.pendingEnd.asEnd = some (state, result) →
        ∃ t : State, exec (.addressNack p leg i rx levels) s = .next t ∧ t.part.cardEnded a.card c.generation state result ∧
          (t.part.twoAt p).state = .idle ∧ t.part.dev = s.part.dev ∧ t.part.rep.queue = queue .none ∧
          (∀ m, m ≠ a.card → t.part.ctx m = s.part.ctx m) ∧
          ∀ x : Nat, Addr.progress a.card + 4 ≤ x → x < Addr.progress a.card + 32 → t.part.rep.mem.get x = s.part.rep.mem.get x

/-- A refused data byte is final: a ONCE card without a bank ends FAILED with DATA_REFUSED whatever its retry limit (R53, R60), and an
unbounded EVERY card does so under STOP_ON_ERROR (R57); its device, not fenced and below its fault threshold or with none, is SUSPECT with
one fault more; the stop leaves the port IDLE. -/
def Obligations.DataNackFailsInstance : Prop :=
  ∀ (s : State) (p : TwoIx) (a : Attempt) (start : Time) (c : Context) (l : Leg) (leg i : Nat) (rx : List Byte)
    (levels : BitVec 2) (b : Before) (cur : Slot) (byte : Byte), s.part.memoryCanonical →
    s.part.run.state = .running → s.part.carriesOut p a start c → atByte a c (.data leg i) rx b cur → cur.kind = .out byte →
    c.legs[leg]? = some l → i < l.length → (c.kind = .once ∨ (c.kind = .every ∧ c.count = 0 ∧ c.flags.stopOnError = true)) →
    c.pendingEnd = .none → c.bankCount = 0 →
    (s.part.dev.get a.device).health ≠ .fenced →
    (a.entry.threshold = 0 ∨ min 15 ((s.part.dev.get a.device).faults + 1) < a.entry.threshold) →
    ∃ (r : Reports) (wire : List BusItem),
      let q :=
        { s.part with
          rep := r
          two := s.part.two.set p.val ((s.part.twoAt p).afterStop s.part.time.count wire) p.isLt
          ctxs := s.part.ctxs.set a.card.val none a.card.isLt
          dev := s.part.dev.put a.device
            { s.part.dev.get a.device with health := .suspect, faults := min 15 ((s.part.dev.get a.device).faults + 1) } }
      exec (.dataNack p leg i rx levels) s = .next { s with part := q } ∧
        q.cardEnded a.card c.generation .failed .dataRefused ∧ wire.getLast? = some .stop ∧
        r.mem.word (Addr.progress a.card + 16) = c.failed + 1#32 ∧
        r.queue = (s.part.rep.request .running s.part.logLevel
          (s.part.errorRecord .dataNack (twoPort p) a c .ending .dataRefused .data (byteOf leg) (byteOf i)
            (lastAddress b.complete) byte (levels.setWidth 8))).queue

/-- The failure that brings a device's fault count to its nonzero threshold fences it: the device is FENCED with its count, a DEVICE_FENCED
record naming the card and the code follows the attempt's record (in this order: the model's reading, log 30; its port is that of the
attempt's entry, the model's choice, log 25), and its status word shows FENCED.  With no map entry, no standby in its entry and no instance
waiting for it nothing else follows.  With a usable standby in its entry and room in the map the pair is entered with a SUBSTITUTION_MADE
record, and the instances that wait for the device move to the standby with the substituted mark; with a full map a SUBST_FULL record is
asked for instead; and without a standby a ONCE card whose instance waits, no attempt made, ends FAILED with DEVICE_FENCED. -/
def Obligations.FailureAtThresholdFencesDevice : Prop :=
  ∀ (s : State) (p : TwoIx) (a : Attempt) (start : Time) (c : Context) (l : Leg) (leg i : Nat) (rx : List Byte)
    (levels : BitVec 2) (b : Before) (cur : Slot) (byte : Byte), s.part.memoryCanonical →
    s.part.run.state = .running → s.part.carriesOut p a start c → atByte a c (.data leg i) rx b cur → cur.kind = .out byte →
    c.legs[leg]? = some l → i < l.length → c.kind = .once → c.pendingEnd = .none → c.bankCount = 0 →
    (s.part.dev.get a.device).health ≠ .fenced → a.entry.threshold ≠ 0 →
    a.entry.threshold ≤ min 15 ((s.part.dev.get a.device).faults + 1) → s.part.dev.standbyOf a.device = none →
    s.part.rep.queue.length + 3 ≤ 16 →
    let entry := readEntry s.part.rep.mem a.device
    let unwaited := ∀ m x, s.part.ctx m = some x → x.isWaiting = false
    let fenced := s.part.dev.put a.device
      { s.part.dev.get a.device with health := .fenced, faults := min 15 ((s.part.dev.get a.device).faults + 1) }
    let bare := fun kind => FaultRecord.bare kind s.part.time.count
    let records :=
      [s.part.errorRecord .dataNack (twoPort p) a c .ending .dataRefused .data (byteOf leg) (byteOf i) (lastAddress b.complete)
        byte (levels.setWidth 8),
       { bare .deviceFenced with
         result := .dataRefused, port := some a.entry.portIx, device := some a.device, card := some a.card
         generation := c.generation }]
    let substitution := fun (kind : FaultKind) (result : ResultCode) (x : DevIx) =>
      { bare kind with
        result := result, device := some a.device, resolved := some x, card := some a.card, generation := c.generation }
    ∃ t : State, exec (.dataNack p leg i rx levels) s = .next t ∧ t.part.cardEnded a.card c.generation .failed .dataRefused ∧
      t.part.rep.mem.word (Addr.status a.device) = t.part.dev.statusWord a.device ∧
      (unwaited → entry.standby = 0xFF → t.part.dev = fenced ∧ t.part.rep.queue = s.part.rep.queue ++ records) ∧
      (∀ x : DevIx, entry.present = true → entry.standby = x.val → x ≠ a.device → s.part.usableStandby x = true →
        (s.part.dev.subst.length < 8 → t.part.dev = { fenced with subst := s.part.dev.subst ++ [(a.device, x)] }) ∧
          (s.part.dev.subst.length < 8 → unwaited →
            t.part.rep.queue = s.part.rep.queue ++ records ++ [substitution .substitutionMade .none x]) ∧
          (s.part.dev.subst.length < 8 → entry.legal = true → s.part.portFenced (readEntry s.part.rep.mem x).portIx = false →
            ∀ m y, m ≠ a.card → s.part.ctx m = some y → y.isWaiting = true → y.resolved = a.device → y.device = a.device →
              t.part.ctx m = some
                { y with
                  phase := .waiting (readEntry s.part.rep.mem x).portIx, resolved := x, substituted := true, gapExpiry := none }) ∧
          (8 ≤ s.part.dev.subst.length → unwaited →
            t.part.dev = fenced ∧
              t.part.rep.queue = s.part.rep.queue ++ records ++ [substitution .substFull .substFull x])) ∧
      (entry.present = true → entry.legal = true → entry.standby = 0xFF →
        ∀ m y, m ≠ a.card → s.part.ctx m = some y → y.isWaiting = true → y.resolved = a.device → y.device = a.device →
          y.kind = .once → y.pendingEnd = .none → y.last = none → t.part.cardEnded m y.generation .failed .deviceFenced)

/-- An arbitration loss in a byte that the part sends with a bit released high: the lines are released, the port is HELD with the view
BUSY and its hold timer started, an ARB_LOST record marked YIELDED is asked for, and below 16 yields the instance is resolved again and
becomes WAITING with its yield tally raised and no window.  A start of another master seen before the part's own is the same in phase
START, with both stamps the time count.  Nothing else changes.  The 16th yield fails the instance: a ONCE card without a bank ends FAILED
with YIELD_LIMIT, the record marked ENDING and the device charged.  (The last address byte of a record in a cut address byte is open, log
15; the indices of a record in START are the model's choice, log 16, and its levels there the model's reading, log 14.) -/
def Obligations.ArbitrationLossYields : Prop :=
  (∀ (s : State) (p : TwoIx) (a : Attempt) (start : Time) (c : Context) (pos : BusPos) (rx : List Byte) (levels : BitVec 2)
      (b : Before) (cur : Slot) (h : Header) (r : Resolution), s.part.run.state = .running → s.part.carriesOut p a start c →
      atByte a c pos rx b cur → b.whole = false → (∃ byte, byte ≠ 0#8 ∧ (cur.kind = .address byte ∨ cur.kind = .out byte)) →
      c.pendingEnd = .none → c.yieldTally + 1 < 16 → s.part.intake.header = some h →
      let now := s.part.time.count
      let place := recordPosition c.legs.length pos
      ∃ wire : List BusItem, wire.getLast? = some .released ∧
        let s0 := (s.part.setTwo p
          { s.part.twoAt p with
            state := .held, viewBusy := true, measureFrom := now, holdTimer := some (now + BitVec.ofNat 32 (1000 * h.holdLimit))
            wire := wire }).request
          (s.part.errorRecord .arbLost (twoPort p) a c .yielded .none place.1 place.2.1 place.2.2 b.lastAddress
            (lastByte (crossed b.complete rx [])) (levels.setWidth 8))
        (s0.resolve c.device = .ok r →
          exec (.arbLost p pos rx levels) s = .next
            { s with part := (s0.setCtx a.card (some
              { c with
                last := some (s.part.endedNow a start), yieldTally := c.yieldTally + 1, phase := .waiting r.port
                resolved := r.device, substituted := r.substituted, windowExpiry := none, gapExpiry := none })) })) ∧
  (∀ (s : State) (p : TwoIx) (a : Attempt) (c : Context) (h : Header) (r : Resolution), s.part.host.resetAsserted = false →
      s.part.run.state = .running → (s.part.twoAt p).state = .active .start a → a.start = none → s.part.ctx a.card = some c →
      c.pendingEnd = .none → c.yieldTally + 1 < 16 → s.part.intake.header = some h →
      let now := s.part.time.count
      let s0 := (s.part.setTwo p
        { s.part.twoAt p with
          state := .held, viewBusy := true, measureFrom := now, holdTimer := some (now + BitVec.ofNat 32 (1000 * h.holdLimit))
          wire := [] }).request
        (s.part.errorRecord .arbLost (twoPort p) a c .yielded .none .start 0#8 0#8 0#8 0#8 0x01#8)
      s0.resolve c.device = .ok r →
      exec (.startCondition p) s = .next
        { s with part := (s0.setCtx a.card (some
          { c with
            last := some (s.part.endedNow a now), yieldTally := c.yieldTally + 1, phase := .waiting r.port, resolved := r.device
            substituted := r.substituted, windowExpiry := none, gapExpiry := none })) }) ∧
  ∀ (s : State) (p : TwoIx) (a : Attempt) (start : Time) (c : Context) (pos : BusPos) (rx : List Byte) (levels : BitVec 2)
    (b : Before) (cur : Slot) (h : Header), s.part.memoryCanonical → s.part.run.state = .running → s.part.carriesOut p a start c →
    atByte a c pos rx b cur → b.whole = false → (∃ byte, byte ≠ 0#8 ∧ (cur.kind = .address byte ∨ cur.kind = .out byte)) →
    c.pendingEnd = .none → 16 ≤ c.yieldTally + 1 → s.part.intake.header = some h → c.kind = .once → c.bankCount = 0 →
    let device := s.part.dev.get a.device
    let faults := min 15 (device.faults + 1)
    let place := recordPosition c.legs.length pos
    device.health ≠ .fenced → (a.entry.threshold = 0 ∨ faults < a.entry.threshold) →
    ∃ t : State, exec (.arbLost p pos rx levels) s = .next t ∧ t.part.cardEnded a.card c.generation .failed .yieldLimit ∧
      (t.part.twoAt p).state = .held ∧ (t.part.twoAt p).viewBusy = true ∧
      (t.part.twoAt p).holdTimer = some (s.part.time.count + BitVec.ofNat 32 (1000 * h.holdLimit)) ∧
      t.part.dev = s.part.dev.put a.device { device with health := .suspect, faults := faults } ∧
      t.part.rep.queue = (s.part.rep.request .running s.part.logLevel
        (s.part.errorRecord .arbLost (twoPort p) a c .ending .yieldLimit place.1 place.2.1 place.2.2 b.lastAddress
          (lastByte (crossed b.complete rx [])) (levels.setWidth 8))).queue

/-- A misplaced condition that does not come between bytes, with retries left: after a stop the port is IDLE with the view FREE, after a
start it is HELD with the view BUSY and its hold timer started; a BUS_ERROR record marked RETRIED is asked for and the instance waits for
its retry gap; nothing else changes.  In a ninth bit, and in the stop after a refused or wrong byte, the last byte seen is the byte whose
eight bits have crossed.  (The levels of the record are the model's reading, log 14; the last address byte of a cut address byte is open, log
15; the indices in START, TURN and STOP are the model's, log 16; between bytes means the repeated starts, log 36.) -/
def Obligations.BusErrorRetries : Prop :=
  ∀ (s : State) (p : TwoIx) (a : Attempt) (start : Time) (c : Context) (pos : BusPos) (rx : List Byte) (isStop : Bool)
    (b : Before) (h : Header), s.part.run.state = .running → s.part.carriesOut p a start c →
    locateWith (c.twoSlots a.entry) c.legs.length pos rx = some b → (∀ l, pos ≠ .turn l ∧ pos ≠ .readdress l) → retries a c →
    s.part.intake.header = some h →
    let now := s.part.time.count
    let t := s.part.twoAt p
    let place := recordPosition c.legs.length pos
    ∃ wire : List BusItem, wire.getLast? = some .released ∧
      let port : TwoWire :=
        if isStop then
          { t with state := .idle, viewBusy := false, lastStop := now, measureFrom := now, holdTimer := none, wire := wire }
        else
          { t with state := .held, viewBusy := true, measureFrom := now, wire := wire
                   holdTimer := some (now + BitVec.ofNat 32 (1000 * h.holdLimit)) }
      exec (.busError p pos rx isStop) s = .next
        { s with part :=
          (((s.part.setTwo p port).request
            (s.part.errorRecord .busError (twoPort p) a c .retried .none place.1 place.2.1 place.2.2 b.lastAddress
              (b.lastByte rx) (if isStop then 0x03#8 else 0x01#8))).setCtx a.card
            (some (c.retrying a (s.part.endedNow a start)))) } ∧
      (∀ cur : Slot, b.current = some cur → b.whole = true →
        b.lastByte rx = match cur.kind with | .address x => x | .out x => x | .read _ => rx.getLastD 0#8 | .readCheck => rx.getLastD 0#8)

/-- A clock held low for the reply limit: the port passes to RECOVERING, the lines released and the attempt still in progress, with the
position and the levels kept for its record.  When the recovery succeeds within 9 pulses a stop leaves the port IDLE with the view FREE,
a RECOVERY_DONE record is asked for, and the attempt hands on STRETCH_TIMEOUT: with retries left the instance waits for its retry gap
from now.  Nothing else changes.  (The wait is measured on the port's bus clocks and comes with the event, logs 12 and 13; the last address
byte of a cut address byte is open, log 15; the indices in START, TURN and STOP are the model's, log 16; the levels of RECOVERY_DONE are the
model's reading, log 28; the pulses are not timed, log 36.) -/
def Obligations.StretchTimeoutRecovers : Prop :=
  (∀ (s : State) (p : TwoIx) (a : Attempt) (start : Time) (c : Context) (pos : BusPos) (rx : List Byte) (low : Measure)
      (dataHigh : Bool) (b : Before), s.part.carriesOut p a start c →
      locateWith (c.twoSlots a.entry) c.legs.length pos rx = some b → Time.atOrAfter low.since start = true →
      Time.atOrAfter s.part.time.count low.since = true → 1000 * a.entry.reply ≤ low.ns →
      ∃ (wire : List BusItem) (q : TwoWire), wire.getLast? = some .released ∧
        q =
          { s.part.twoAt p with
            state := .recovering
              { cause := .attempt a pos b.lastAddress (b.lastByte rx) (if dataHigh then 0x02#8 else 0x00#8)
                since := s.part.time.count, limit := s.part.holdLimitUs, changes := [] }
            measureFrom := s.part.time.count, stretchTimer := some low.since, wire := wire } ∧
        q.busy = true ∧ exec (.stretchTimeout p pos rx low dataHigh) s = .next { s with part := s.part.setTwo p q }) ∧
  (∀ (s : State) (p : TwoIx) (a : Attempt) (start : Time) (c : Context) (pos : BusPos) (la lb lv : Byte) (since : Time)
      (limit pulses : Nat) (changes : List (Time × Nat)), s.part.run.state = .running → pulses ≤ 9 →
      (s.part.twoAt p).state =
        .recovering { cause := .attempt a pos la lb lv, since := since, limit := limit, changes := changes } →
      a.start = some start → s.part.ctx a.card = some c → retries a c →
      let place := recordPosition c.legs.length pos
      ∃ wire : List BusItem, wire.getLast? = some .stop ∧
        exec (.recoveryDone p pulses) s = .next
          { s with part :=
            ((((s.part.setTwo p ((s.part.twoAt p).afterStop s.part.time.count wire)).request
              { FaultRecord.bare .recoveryDone s.part.time.count with
                port := some (twoPort p), levels := 0x03#8, device := some c.device, resolved := some a.device
                card := some a.card, generation := c.generation }).request
              (s.part.errorRecord .stretchTimeout (twoPort p) a c .retried .none place.1 place.2.1 place.2.2 la lb lv)).setCtx
              a.card (some (c.retrying a (s.part.endedNow a start)))) })

/-- A recovery that fails, here at attach with the other line check still running, and the expiry of the hold timer of a HELD two-wire
port or a YIELDED four-wire port: the port is FENCED with its PORT_STUCK or BUS_HELD record and CAUSE.PORT set; with an empty ready list
nothing else changes, but that a failed recovery has driven its pulses and releases the lines.  The first wait of a recovery is bounded by the limit in force at its beginning, and a pulse's wait by the limit of the
last sweep at or before that pulse's release (R26; log 36); the wait comes with the event (log 12), and the levels of the PORT_STUCK
record are the model's reading (log 28).  In a BUS_HELD record of a four-wire port an asserted SENSE is written as high (the model's choice,
log 41).  An instance of a ONCE card alone on the ready list, no attempt made, ends FAILED with PORT_FENCED.  Left out: the
failed recovery of an attempt or of a PORT_CLEAR. -/
def Obligations.FailedRecoveryOrHoldExpiryFencesPort : Prop :=
  (∀ (s : State) (p q : TwoIx) (since : Time) (limit : Nat) (changes : List (Time × Nat)) (reason : StuckBy) (dataHigh : Bool), q ≠ p →
      let r : Recovery := { cause := .attach, since := since, limit := limit, changes := changes }
      (s.part.twoAt p).state = .recovering r →
      (s.part.twoAt q).inAttachCheck = true → s.part.readyCards (twoPort p) = [] →
      (match reason with
        | .firstWait low => low.since = since ∧ 1000 * limit ≤ low.ns
        | .pulseWait pulses low =>
          pulses < 9 ∧ Time.atOrAfter low.since since = true ∧ Time.atOrAfter s.part.time.count low.since = true ∧
            1000 * r.limitAt low.since ≤ low.ns
        | .dataLow => dataHigh = false) →
      let driven : List BusItem :=
        match reason with
        | .firstWait _ => []
        | .pulseWait pulses _ => [.pulses pulses]
        | .dataLow => [.pulses 9]
      let port : TwoWire :=
        { s.part.twoAt p with
          state := .fenced, holdTimer := none, stretchTimer := none, measureFrom := s.part.time.count
          wire := (s.part.twoAt p).wire ++ driven ++ [.released] }
      exec (.portStuck p reason dataHigh) s = .next
        { s with part :=
          (((s.part.setTwo p port).request
            { FaultRecord.bare .portStuck s.part.time.count with
              port := some (twoPort p), levels := if dataHigh then 0x02#8 else 0x00#8 }).tell .port) }) ∧
  (∀ (r : Recovery) (from' : Time),
      ((∀ x ∈ r.changes, Time.atOrAfter from' x.1 = false) → r.limitAt from' = r.limit) ∧
        ∀ (later earlier : List (Time × Nat)) (x : Time × Nat), r.changes = later ++ x :: earlier →
          (∀ y ∈ later, Time.atOrAfter from' y.1 = false) → Time.atOrAfter from' x.1 = true → r.limitAt from' = x.2) ∧
  ((∀ (s : State) (p : TwoIx) (levels : BitVec 2) (e : Time), (s.part.twoAt p).state = .held →
        (s.part.twoAt p).holdTimer = some e → Time.atOrAfter s.part.time.count e = true → s.part.readyCards (twoPort p) = [] →
        exec (.holdTimerExpiry p levels) s = .next
          { s with part :=
            (((s.part.setTwo p { s.part.twoAt p with state := .fenced, holdTimer := none, stretchTimer := none }).request
              { FaultRecord.bare .busHeld s.part.time.count with
                port := some (twoPort p), levels := levels.setWidth 8 }).tell .port) }) ∧
      (∀ (s : State) (q : FourIx) (levels : BitVec 3) (e : Time), (s.part.fourAt q).state = .yielded →
        (s.part.fourAt q).holdTimer = some e → Time.atOrAfter s.part.time.count e = true → s.part.readyCards (fourPort q) = [] →
        exec (.senseHoldExpiry q levels) s = .next
          { s with part :=
            (((s.part.setFour q { s.part.fourAt q with state := .fenced, holdTimer := none }).request
              { FaultRecord.bare .busHeld s.part.time.count with
                port := some (fourPort q)
                levels := levels.setWidth 8 ||| (if (s.part.fourAt q).sense then 0x08#8 else 0x00#8) }).tell .port) }) ∧
      ∀ (s : State) (p : TwoIx) (levels : BitVec 2) (e : Time) (n : CardIx) (c : Context), s.part.memoryCanonical →
        (s.part.twoAt p).state = .held → (s.part.twoAt p).holdTimer = some e → Time.atOrAfter s.part.time.count e = true →
        s.part.readyCards (twoPort p) = [n] → s.part.ctx n = some c → c.kind = .once → c.pendingEnd = .none → c.last = none →
        s.part.rep.queue.length < 16 →
        ∃ t : State, exec (.holdTimerExpiry p levels) s = .next t ∧ t.part.portFenced (twoPort p) = true ∧
          t.part.rep.latch .port = true ∧ t.part.cardEnded n c.generation .failed .portFenced ∧
          t.part.readyCards (twoPort p) = [] ∧ (∀ m, m ≠ n → t.part.ctx m = s.part.ctx m) ∧
          ∀ a : Nat, ¬Addr.ofCardReport n a → t.part.rep.mem.get a = s.part.rep.mem.get a)

/-! ### Four-wire ports -/

/-- DONE on a four-wire port: the select is deasserted with the end stamp now, and the port is IDLE, or YIELDED with its hold timer started
while SENSE is asserted in RUNNING, QUIESCING or STOPPED; the time, the host, the sweep, the reservations and the two-wire ports stand.  For
an unbounded EVERY card with a bank, no debt, its next instance not yet due, and SENSE deasserted: with room in the bank, or under KEEP_NEWEST
with the bank full, the sample is written into the slot the bank position names, the made counter and the position advance, an overwritten
sample counts as lost, and under NOTIFY the Attention Unit is told; with the bank full and KEEP_NEWEST clear no slot is written and the
sample counts as lost; and the card goes on with instance j, SLEEPING (its resolved device and substituted mark before the first
resolution are the model's choice, log 40), its progress half showing the counters, the device and the stamps.  A taken counter found invalid writes no slot and ends the card FAILED with TAKEN_INVALID and its record.  The device is HEALTHY with count 0,
and no byte but those of the slot, the progress half and the status word is written. -/
def Obligations.FourWireDoneWritesSample : Prop :=
  (∀ (s : State) (q : FourIx) (a : Attempt) (start : Time) (c : Context) (data : List Byte),
    (s.part.fourAt q).state = .active .data a → a.start = some start → s.part.ctx a.card = some c → data.length = c.readTotal →
    let live := s.part.run.state = .running ∨ s.part.run.state = .quiescing ∨ s.part.run.state = .stopped
    ∃ (t : State) (wire : List BusItem) (u : FourWire), exec (.fourWireDone q data) s = .next t ∧ t.pending = s.pending ∧
      t.part.four = s.part.four.set q.val u q.isLt ∧
      ((s.part.fourAt q).sense = false ∨ ¬live → u = (s.part.fourAt q).afterDeselect s.part.time.count wire) ∧
      (∀ h : Header, (s.part.fourAt q).sense = true → live → s.part.intake.header = some h →
        u =
          { s.part.fourAt q with
            state := .yielded, lastDeselect := s.part.time.count, wire := wire
            holdTimer := some (s.part.time.count + BitVec.ofNat 32 (1000 * h.holdLimit)) }) ∧
      t.part.time = s.part.time ∧ t.part.host = s.part.host ∧ t.part.intake = s.part.intake ∧
      t.part.waiting = s.part.waiting ∧ t.part.two = s.part.two ∧ t.part.freeCount = s.part.freeCount) ∧
  ∀ (s : State) (q : FourIx) (a : Attempt) (start : Time) (c : Context) (data : List Byte) (h : Header), s.part.memoryCanonical →
    s.part.run.state = .running → s.part.intake.header = some h → (s.part.fourAt q).state = .active .data a → a.start = some start →
    (s.part.fourAt q).sense = false → s.part.ctx a.card = some c → data.length = c.readTotal → c.kind = .every → c.count = 0 →
    c.pendingEnd = .none → c.debt = 0 → c.bankCount ≠ 0 →
    (s.part.dev.get a.device).health ≠ .fenced → (c.flags.setting = false ∨ a.entry.guardTime = 0) →
    (c.armed = true → Time.atOrAfter s.part.time.count c.nextArrival = false) →
    let now := s.part.time.count
    let fill := (c.made - takenCounter s.part.rep.mem a.card).toNat
    let room := fill < c.bankCount
    let keeps := fill = c.bankCount ∧ c.flags.keepNewest = true
    let drops := fill = c.bankCount ∧ c.flags.keepNewest = false
    let slot := 0x4000 + 32 * (c.bankFirst + c.position)
    let half := Addr.progress a.card
    let made := if drops then c.made else c.made + 1#16
    let lost := if room then c.lost else c.lost.saturatingAdd 1
    let counted :=
      { c with
        run := c.run + 1#32, made := made, lost := lost
        position := if drops then c.position else if c.position + 1 < c.bankCount then c.position + 1 else 0
        retriesTotal := c.retriesTotal.saturatingAdd c.retryTally, yieldsTotal := c.yieldsTotal.saturatingAdd c.yieldTally
        deviceUsed := byteOf a.device.val }
    let u := s.part.dev.put a.device { s.part.dev.get a.device with health := .healthy, faults := 0 }
    let flags : Byte :=
      (if c.late then 0x01#8 else 0x00#8) ||| (if c.catchUpRun then 0x02#8 else 0x00#8) |||
        (if a.substituted then 0x04#8 else 0x00#8) ||| (if a.fallback || s.part.time.source == .fallback then 0x08#8 else 0x00#8)
    let after := fun (rep : Reports) (wire : List BusItem) (x : Option Context) =>
      { s.part with
        rep := rep
        four := s.part.four.set q.val ((s.part.fourAt q).afterDeselect now wire) q.isLt
        ctxs := s.part.ctxs.set a.card.val x a.card.isLt
        dev := u }
    let shows := fun m : Memory =>
      m.word (half + 8) = c.run + 1#32 ∧ m.word (half + 12) = s.part.rep.mem.word (half + 12) ∧
        m.word (half + 16) = s.part.rep.mem.word (half + 16) ∧
        m.word (half + 20) = Word.ofHalves counted.retriesTotal counted.yieldsTotal ∧ m.word (half + 24) = start ∧
        m.word (half + 28) = now ∧
        m.word (Addr.status a.device) = (if u.statusWord a.device = s.part.dev.statusWord a.device
          then s.part.rep.mem.word (Addr.status a.device) else u.statusWord a.device)
    (room ∨ keeps ∨ drops →
      ∃ (m : Memory) (wire : List BusItem),
        let told :=
          if c.flags.notify = true ∧ ¬drops then s.part.rep.sampleTold h.threshold h.holdoff now else s.part.rep
        exec (.fourWireDone q data) s = .next
          { s with part := (after { told with mem := m } wire (some { counted.serve c.j with phase := .sleeping })) } ∧
        shows m ∧ m.word (half + 4) = Word.ofHalves made lost ∧
        m.word half = progressWord c.generation (if c.active then .active else .accepted) .none 0 (byteOf a.device.val) ∧
        (¬drops →
          (∀ i : Nat, i < 2 → m.get (slot + i) = (c.made + 1#16).extractLsb' (8 * i) 8 ∧
              m.get (slot + 30 + i) = (c.made + 1#16).extractLsb' (8 * i) 8) ∧
            m.get (slot + 2) = byteOf a.card.val ∧ m.get (slot + 3) = c.generation ∧ m.word (slot + 4) = start ∧
            m.get (slot + 8) = 0x01#8 ∧ m.get (slot + 9) = byteOf c.readTotal ∧ m.get (slot + 10) = flags ∧
            (∀ i : Nat, i < 18 → m.get (slot + 11 + i) = data.getD i 0#8) ∧ m.get (slot + 29) = 0x00#8) ∧
        ∀ x : Nat, ¬(¬drops ∧ slot ≤ x ∧ x < slot + 32) → ¬(half ≤ x ∧ x < half + 32) →
          ¬(Addr.status a.device ≤ x ∧ x < Addr.status a.device + 4) → m.get x = s.part.rep.mem.get x) ∧
      (c.bankCount < fill → s.part.rep.queue.length < 16 →
        ∃ (m : Memory) (wire : List BusItem),
          let rep :=
            { s.part.rep with
              mem := m, done := s.part.rep.done ||| (1#96 <<< a.card.val), cause := s.part.rep.cause ||| 0x01#8
              queue := s.part.rep.queue ++
                [{ FaultRecord.bare .takenInvalid now with
                   result := .takenInvalid, device := some c.device, resolved := some a.device, card := some a.card
                   generation := c.generation }] }
          exec (.fourWireDone q data) s = .next { s with part := after rep wire none } ∧
            (after rep wire none).cardEnded a.card c.generation .failed .takenInvalid ∧ shows m ∧
            m.word (half + 4) = s.part.rep.mem.word (half + 4) ∧
            m.word half = progressWord c.generation .failed .takenInvalid 0 (byteOf a.device.val) ∧
            ∀ x : Nat, ¬Addr.ofCardReport a.card x → ¬(Addr.status a.device ≤ x ∧ x < Addr.status a.device + 4) →
              m.get x = s.part.rep.mem.get x)

/-- A check mismatch on a READ leg of a four-wire port, with retries left and SENSE deasserted: the clock returns to its idle level, the
select is deasserted, the lines are released and the port is IDLE, the instance waits for its retry gap, and a CHECK_MISMATCH record marked
RETRIED is asked for, with the select line as last address and the wrong check byte as last byte, and a deasserted SENSE written as low in
its levels (the model's choice, log 41); nothing else changes. -/
def Obligations.FourWireMismatchRetries : Prop :=
  ∀ (s : State) (q : FourIx) (a : Attempt) (start : Time) (c : Context) (l : Leg) (leg : Nat) (rx : List Byte) (got : Byte)
    (levels : BitVec 3) (b : Before) (cur : Slot), s.part.run.state = .running → (s.part.fourAt q).state = .active .data a →
    a.start = some start → (s.part.fourAt q).sense = false → s.part.ctx a.card = some c →
    c.legs[leg]? = some l → locateWith (c.fourSlots a.entry) c.legs.length (.data leg l.length) rx = some b →
    b.current = some cur → cur.kind = .readCheck → got ≠ crc8 (rx.drop (rx.length - l.length)) → retries a c →
    ∃ wire : List BusItem, wire.drop (wire.length - 3) = [.clockIdle (decide (2 ≤ a.entry.mode)), .deselect, .released] ∧
      exec (.fourWireCheckMismatch q leg rx got levels) s = .next
        { s with part :=
          (((s.part.setFour q ((s.part.fourAt q).afterDeselect s.part.time.count wire)).request
            (s.part.errorRecord .checkMismatch (fourPort q) a c .retried .none .data (byteOf leg) (byteOf l.length)
              (byteOf a.entry.address) got (levels.setWidth 8))).setCtx a.card
            (some (c.retrying a (s.part.endedNow a start)))) }

/-- SENSE: its assertion puts an IDLE port in YIELDED with its hold timer started in RUNNING, QUIESCING or STOPPED and is only read in
another run state or on a FENCED port; its deassertion returns a YIELDED port to IDLE.  After the last bit of an attempt an assertion does not
disturb the outcome: the attempt ends DONE at once, as FOUR_WIRE_DONE would end it with SENSE asserted (the model's reading, log 33).  An
assertion in phase SELECT or DATA is a contention: the lines are released and the select, if asserted, is deasserted with the end stamp in
the same step (the model's reading, log 31), the port is YIELDED with its hold timer started, a CONTENTION record marked YIELDED is asked for
with SENSE high in its levels (the model's choice, log 41), and below 16 yields the instance is resolved again and becomes WAITING. -/
def Obligations.SenseYieldsOrContends : Prop :=
  (∀ (s : State) (q : FourIx) (rx : List Byte) (levels : BitVec 3), s.part.host.resetAsserted = false →
      let t := s.part.fourAt q
      let live := s.part.run.state = .running ∨ s.part.run.state = .quiescing ∨ s.part.run.state = .stopped
      (∀ (pos : SensePos) (h : Header), t.sense = false → t.state = .idle → live → s.part.intake.header = some h →
        exec (.senseAssertion q pos rx levels) s = .next
          { s with part := (s.part.setFour q
            { t with
              sense := true, state := .yielded
              holdTimer := some (s.part.time.count + BitVec.ofNat 32 (1000 * h.holdLimit)) }) }) ∧
        (∀ pos : SensePos, t.sense = false → (t.state = .fenced ∨ (t.state = .idle ∧ t.holdTimer = none ∧ ¬live)) →
          exec (.senseAssertion q pos rx levels) s = .next { s with part := (s.part.setFour q { t with sense := true }) }) ∧
        (∀ (a : Attempt) (c : Context), t.sense = false → t.state = .active .data a → s.part.ctx a.card = some c →
          rx.length = c.readTotal →
          exec (.senseAssertion q .afterLastBit rx levels) s =
            exec (.fourWireDone q rx) { s with part := s.part.setFour q { t with sense := true } }) ∧
        (t.state = .yielded →
          exec (.senseDeassertion q) s = .next
            { s with part := (s.part.setFour q { t with sense := false, state := .idle, holdTimer := none }) }) ∧
        (t.state ≠ .yielded →
          exec (.senseDeassertion q) s = .next { s with part := (s.part.setFour q { t with sense := false }) })) ∧
  (∀ (s : State) (q : FourIx) (a : Attempt) (asserted : Bool) (start : Time) (c : Context) (rx : List Byte) (levels : BitVec 3)
      (h : Header) (r : Resolution), s.part.host.resetAsserted = false → s.part.run.state = .running →
      (s.part.fourAt q).sense = false → (s.part.fourAt q).state = .active (.select asserted) a →
      a.start = (if asserted then some start else none) → s.part.ctx a.card = some c → c.pendingEnd = .none →
      c.yieldTally + 1 < 16 → s.part.intake.header = some h →
      let now := s.part.time.count
      ∃ wire : List BusItem,
        let s0 := (s.part.setFour q
          { s.part.fourAt q with
            state := .yielded, sense := true, holdTimer := some (now + BitVec.ofNat 32 (1000 * h.holdLimit))
            lastDeselect := if asserted then now else (s.part.fourAt q).lastDeselect, wire := wire }).request
          (s.part.errorRecord .contention (fourPort q) a c .yielded .none .select 0#8 0#8 (byteOf a.entry.address) 0#8
            (levels.setWidth 8 ||| 0x08#8))
        (s0.resolve c.device = .ok r →
          exec (.senseAssertion q .select rx levels) s = .next
            { s with part := (s0.setCtx a.card (some
              { c with
                last := some (s.part.endedNow a (if asserted then start else now)), yieldTally := c.yieldTally + 1
                phase := .waiting r.port, resolved := r.device, substituted := r.substituted, windowExpiry := none
                gapExpiry := none })) })) ∧
  ∀ (s : State) (q : FourIx) (a : Attempt) (start : Time) (c : Context) (leg i : Nat) (rx : List Byte) (levels : BitVec 3)
    (b : Before) (h : Header) (r : Resolution), s.part.host.resetAsserted = false → s.part.run.state = .running →
    (s.part.fourAt q).sense = false → (s.part.fourAt q).state = .active .data a → a.start = some start →
    s.part.ctx a.card = some c → locateWith (c.fourSlots a.entry) c.legs.length (.data leg i) rx = some b → c.pendingEnd = .none →
    c.yieldTally + 1 < 16 → s.part.intake.header = some h →
    let now := s.part.time.count
    ∃ wire : List BusItem, wire.drop (wire.length - 2) = [.released, .deselect] ∧
      let s0 := (s.part.setFour q
        { s.part.fourAt q with
          state := .yielded, sense := true, holdTimer := some (now + BitVec.ofNat 32 (1000 * h.holdLimit))
          lastDeselect := now, wire := wire }).request
        (s.part.errorRecord .contention (fourPort q) a c .yielded .none .data (byteOf leg) (byteOf i) (byteOf a.entry.address)
          (lastByte (crossed b.complete rx [])) (levels.setWidth 8 ||| 0x08#8))
      (s0.resolve c.device = .ok r →
        exec (.senseAssertion q (.data leg i) rx levels) s = .next
          { s with part := (s0.setCtx a.card (some
            { c with
              last := some (s.part.endedNow a start), yieldTally := c.yieldTally + 1, phase := .waiting r.port
              resolved := r.device, substituted := r.substituted, windowExpiry := none, gapExpiry := none })) })

/-! ### Reports -/

/-- The request for a record (R141, R142): kept in RUNNING, QUIESCING, STOPPED and ATTACHING if the level is FULL, or the record is no
attempt error, or it is marked ENDING; it joins the tail of a queue of fewer than 16 requests and is lost at a queue of 16, with the
lost count, its mirror and CAUSE.FAULT; else it is discarded without trace. -/
def Obligations.RequestKeptLostOrDiscarded : Prop :=
  ∀ (r : Reports) (state : RunState) (level : LogLevel) (f : FaultRecord),
    let takes := state = .running ∨ state = .quiescing ∨ state = .stopped ∨ state = .attaching
    let error := f.kind = .addressNack ∨ f.kind = .dataNack ∨ f.kind = .arbLost ∨ f.kind = .busError ∨
      f.kind = .stretchTimeout ∨ f.kind = .contention ∨ f.kind = .checkMismatch
    let kept := takes ∧ (level = .full ∨ ¬error ∨ f.disposition = .ending)
    let lost := if r.logLost = 0xFFFF#16 then 0xFFFF#16 else r.logLost + 1#16
    (¬kept → r.request state level f = r) ∧
      (kept → r.queue.length < 16 → r.request state level f = { r with queue := r.queue ++ [f] }) ∧
      (kept → 16 ≤ r.queue.length →
        r.request state level f =
          { r with
            logLost := lost, mem := r.mem.setWord 0x0048 (Word.ofHalves r.appendCount.low lost), cause := r.cause ||| 0x04#8 })

/-- An append with a fill below 32: the head of the queue is written into slot made mod 32 with the append count plus 1 as leading and
closing sequence and the fields of Table 12-13 between, then the append count rises, the made mirror shows it and CAUSE.FAULT is set; no
other byte changes.  With a fill of 32 or more the record is lost: the lost count rises, saturating, its mirror is written and CAUSE.FAULT
set (R147).  The codes of kinds, dispositions and phases are those of Tables 12-13 and 12-14. -/
def Obligations.AppendWritesRecordOrLosesIt : Prop :=
  (∀ (s : State) (f : FaultRecord) (rest : List FaultRecord), s.part.memoryCanonical → s.part.rep.queue = f :: rest →
    (s.part.run.state = .running ∨ s.part.run.state = .quiescing ∨ s.part.run.state = .stopped ∨
      (s.part.run.state = .attaching ∧ s.part.run.attach = some .lineCheck)) →
    let r := s.part.rep
    let made := r.appendCount.low
    let taken := (r.mem.word 0x0018).low
    let slot := 0x3600 + 64 * (made.toNat % 32)
    let sequence := r.appendCount + 1#32
    ((made - taken).toNat < 32 →
      ∃ m : Memory,
        exec .append s = .next
          { s with part :=
            { s.part with rep :=
              { r with mem := m, queue := rest, appendCount := sequence, cause := r.cause ||| 0x04#8 } } } ∧
        (∀ i : Nat, i < 16 → m.word (slot + 4 * i) = (f.words sequence).getD i 0#32) ∧
        m.word slot = sequence ∧ m.word (slot + 60) = sequence ∧ m.word (slot + 4) = f.time ∧
        (m.get (slot + 8) = byteOf f.kind.code ∧ m.get (slot + 9) = byteOf f.disposition.code ∧
          m.get (slot + 10) = byteOf f.result.code ∧
          m.get (slot + 11) = (match f.port with | some p => byteOf p.val | none => 0xFF#8) ∧
          m.get (slot + 12) = (match f.device with | some d => byteOf d.val | none => 0xFF#8) ∧
          m.get (slot + 13) = (match f.resolved with | some d => byteOf d.val | none => 0xFF#8) ∧
          m.get (slot + 14) = (match f.card with | some n => byteOf n.val | none => 0xFF#8) ∧
          m.get (slot + 15) = f.generation ∧ m.get (slot + 16) = byteOf f.attempt ∧ m.get (slot + 17) = byteOf f.phase.code ∧
          m.get (slot + 18) = f.leg ∧ m.get (slot + 19) = f.byteIndex ∧ m.get (slot + 20) = f.lastAddress ∧
          m.get (slot + 21) = f.lastByte ∧ m.get (slot + 22) = f.levels ∧
          ∀ i : Nat, 23 ≤ i → i < 60 → m.get (slot + i) = 0x00#8) ∧
        m.word 0x0048 = Word.ofHalves sequence.low r.logLost ∧
        ∀ a : Nat, ¬(slot ≤ a ∧ a < slot + 64) → ¬(0x0048 ≤ a ∧ a < 0x004C) → m.get a = r.mem.get a) ∧
      (32 ≤ (made - taken).toNat →
        let lost := if r.logLost = 0xFFFF#16 then 0xFFFF#16 else r.logLost + 1#16
        exec .append s = .next
          { s with part :=
            { s.part with rep :=
              { r with
                queue := rest, logLost := lost, mem := r.mem.setWord 0x0048 (Word.ofHalves made lost)
                cause := r.cause ||| 0x04#8 } } })) ∧
  ([FaultKind.addressNack, .dataNack, .arbLost, .busError, .stretchTimeout, .checkMismatch, .contention, .recoveryDone, .portStuck,
      .busHeld, .deviceFenced, .substitutionMade, .substFull, .cardRejected, .debtLimit, .takenInvalid, .refLost,
      .refBack].map FaultKind.code = [1, 2, 3, 4, 5, 6, 7, 8, 9, 10, 11, 12, 13, 14, 15, 16, 17, 18] ∧
    [Disposition.none, .retried, .yielded, .ending].map Disposition.code = [0, 1, 2, 3] ∧
    [RecordPhase.none, .start, .address, .data, .turn, .stop, .select].map RecordPhase.code = [0, 1, 2, 3, 4, 5, 6])

/-- The expiry of the holdoff timer sets CAUSE.SAMPLE and stops the timer in every run state, nothing else changed; before its time
nothing happens (the model's choice, log 1).  A sample told to the Attention Unit (R153), with SAMPLE clear, raises the tally, starts the
holdoff timer at a tally of 0, and at a holdoff of 0 or a tally at the threshold sets SAMPLE and stops the timer; with SAMPLE set it raises
the tally alone.  A tally of 255, which stays, is left out. -/
def Obligations.HoldoffExpiryAndSamplesTold : Prop :=
  ((∀ (s : State) (e : Time), s.part.rep.holdoffTimer = some e → Time.atOrAfter s.part.time.count e = true →
        exec .holdoffExpiry s = .next
          { s with part :=
            { s.part with rep := { s.part.rep with cause := s.part.rep.cause ||| 0x02#8, holdoffTimer := none } } }) ∧
      (∀ (s : State), (∀ e, s.part.rep.holdoffTimer = some e → Time.atOrAfter s.part.time.count e = false) →
        exec .holdoffExpiry s = .next s) ∧
      (∀ (now : Time) (holdoff : Nat), 1 ≤ holdoff → holdoff ≤ 65535 →
        Time.atOrAfter now (now + BitVec.ofNat 32 holdoff) = false) ∧
      ∀ (r : Reports) (threshold holdoff : Nat) (now : Time),
        (r.latch .sample = false → threshold ≤ r.tally + 1 → r.tally < 255 →
          (r.sampleTold threshold holdoff now).latch .sample = true ∧
            (r.sampleTold threshold holdoff now).holdoffTimer = none) ∧
        (r.tally < 255 → (r.holdoffExpired.sampleTold threshold holdoff now).latch .sample = true ∧
          (r.holdoffExpired.sampleTold threshold holdoff now).tally = r.tally + 1)) ∧
  (∀ (r : Reports) (threshold holdoff : Nat) (now : Time), r.tally < 255 →
      let t := r.sampleTold threshold holdoff now
      (r.latch .sample = true → t = { r with tally := r.tally + 1 }) ∧
        (r.latch .sample = false → (holdoff = 0 ∨ threshold ≤ r.tally + 1) →
          t = { r with tally := r.tally + 1, holdoffTimer := none, cause := r.cause ||| 0x02#8 }) ∧
        (r.latch .sample = false → holdoff ≠ 0 → r.tally + 1 < threshold →
          t =
            { r with
              tally := r.tally + 1
              holdoffTimer := if r.tally = 0 then some (now + BitVec.ofNat 32 holdoff) else r.holdoffTimer }))

/-- The two check computations are shift registers that take in each byte most significant bit first: the legs' CRC-8 with polynomial
0x07 from 0x00, and the card's CRC-16 with polynomial 0x1021 from 0xFFFF, neither inverted.  The card's check covers the 84 bytes from
byte 12, in increasing order of offset, whatever they hold; it is compared with the little-endian half at byte 8, and a mismatch fails
validation with REJECT_CHECK. -/
def Obligations.ChecksAreShiftRegisters : Prop :=
  (∀ bytes : List Byte,
    crc8 bytes = (serialBits bytes).foldl (serialStep 0x07#8) 0x00#8 ∧
      crc16 bytes = (serialBits bytes).foldl (serialStep 0x1021#16) 0xFFFF#16) ∧
  ∀ (s : State) (n : CardIx),
    let m := s.part.rep.mem
    let a := 0x0600 + 128 * n.val
    let covered := (List.range 84).map (fun i => m.get (a + 12 + i))
    let check : Half := m.get (a + 9) ++ m.get (a + 8)
    (crc16 covered ≠ check → s.part.validate n (readRequest m n) = .error .rejectCheck) ∧
      (crc16 covered = check → s.part.validate n (readRequest m n) ≠ .error .rejectCheck)

/-! ### Invariants -/

/-- The machine right after reset meets every invariant below. -/
def Obligations.ResetMeetsInvariants : Prop :=
  let p := State.reset.part
  p.memoryCanonical ∧ p.bounded ∧ p.substLegal ∧ p.resetHolds ∧ p.fencedListsEmpty

/-- Every step keeps the canonical form of the exchange memory. -/
def Obligations.StepKeepsMemoryCanonical : Prop :=
  ∀ s t : State, s.part.memoryCanonical → step s = .next t → t.part.memoryCanonical

/-- Every step keeps the bounds of the request queue, the sample tally, the fault counts, the run count, the debts and the number of
card contexts. -/
def Obligations.StepKeepsBounds : Prop :=
  ∀ s t : State, s.part.bounded → step s = .next t → t.part.bounded

/-- Every step keeps the substitution map legal: at most 8 entries, no device the primary of two, no standby its own primary. -/
def Obligations.StepKeepsSubstitutionMapLegal : Prop :=
  ∀ s t : State, s.part.substLegal → step s = .next t → t.part.substLegal

/-- Every step keeps the run state HALTED, with no attach in progress, while the port is not ready. -/
def Obligations.StepKeepsHaltedWhileNotReady : Prop :=
  ∀ s t : State, s.part.resetHolds → step s = .next t → t.part.resetHolds

/-- Every step keeps the ready list of every fenced port empty. -/
def Obligations.StepKeepsFencedListsEmpty : Prop :=
  ∀ s t : State, s.part.fencedListsEmpty → step s = .next t → t.part.fencedListsEmpty

/-- The part never writes a posting or scratch byte: such a byte changes only at a host write or at the power-on clear with the
accesses held until its end. -/
def Obligations.PartWritesOnlyReportWords : Prop :=
  ∀ (i : Instr) (s t : State), s.part.memoryCanonical → exec i s = .next t → i ≠ .powerOnClearEnd →
    (∀ offset value enables, i ≠ .hostWrite offset value enables) →
    ∀ a : Nat, Memory.ownerOf a ≠ .report → t.part.rep.mem.get a = s.part.rep.mem.get a
end

