-- ==== Sys2Proof/Laws/Crc.lean ====
section
/-! SUPPORT. The check computations are plain folds over the bytes. -/

namespace Sys2Proof.Laws

open Sys2Proof.Machine

theorem evalThen_eq {α : Type} (n : Nat) (f : Nat → α) : evalThen n f = f n := by cases n <;> rfl

theorem crcFold_eq_foldl {w : Nat} (step : BitVec w → Byte → BitVec w) (r : BitVec w) (bytes : List Byte) :
    crcFold step r bytes = bytes.foldl step r := by
  induction bytes generalizing r with
  | nil => rfl
  | cons b rest ih => simp [crcFold, evalThen_eq, ih]

theorem crcFold_append {w : Nat} (step : BitVec w → Byte → BitVec w) (r : BitVec w) (xs ys : List Byte) :
    crcFold step r (xs ++ ys) = crcFold step (crcFold step r xs) ys := by
  simp [crcFold_eq_foldl]

theorem crc16_eq_foldl (bytes : List Byte) : crc16 bytes = bytes.foldl crc16Byte 0xFFFF#16 := crcFold_eq_foldl _ _ _

theorem crc8_eq_foldl (bytes : List Byte) : crc8 bytes = bytes.foldl crc8Byte 0x00#8 := crcFold_eq_foldl _ _ _

end Sys2Proof.Laws
end

