-- ==== Sys2Proof/Laws/Memory.lean ====
section
/-! SUPPORT. The exchange memory: what a read gives after each write, and that every write keeps the canonical form. -/

namespace Sys2Proof.Machine

/-! ### The canonical form -/

theorem Memory.wf_cons {a : Nat} {v : Byte} {m : Memory} :
    Memory.wf ((a, v) :: m) = true ↔ v ≠ 0#8 ∧ (∀ c ∈ m, a < c.1) ∧ m.wf = true := by
  simp [Memory.wf, and_assoc]

theorem Memory.wf_nil : Memory.wf [] = true := rfl

/-- An address below every listed one reads 0. -/
theorem Memory.get_eq_zero_of_lt {a : Nat} : ∀ {m : Memory}, (∀ c ∈ m, a < c.1) → m.get a = 0#8
  | [], _ => rfl
  | (b, v) :: m, h => by
    have hb : a < b := h (b, v) (by simp)
    have : b ≠ a := by omega
    simp only [Memory.get, this, if_false]
    exact Memory.get_eq_zero_of_lt (fun c hc => h c (by simp [hc]))

/-- A bound below every listed address stays one when an address above it is written. -/
theorem Memory.set_bound {b a : Nat} {v : Byte} (hba : b < a) :
    ∀ {m : Memory}, (∀ c ∈ m, b < c.1) → ∀ c ∈ m.set a v, b < c.1
  | [], _ => by
    simp only [Memory.set]; split <;> simp [hba]
  | (x, w) :: m, h => by
    have hx : b < x := h (x, w) (by simp)
    have ht : ∀ c ∈ m, b < c.1 := fun c hc => h c (by simp [hc])
    have ih := Memory.set_bound (v := v) hba ht
    intro c hc
    simp only [Memory.set] at hc
    split_ifs at hc
    · exact h c hc
    · rcases List.mem_cons.mp hc with rfl | hc
      · exact hba
      · exact h c hc
    · exact ht c hc
    · rcases List.mem_cons.mp hc with rfl | hc
      · exact hba
      · exact ht c hc
    · rcases List.mem_cons.mp hc with rfl | hc
      · exact hx
      · exact ih c hc

/-- Writing one byte keeps the canonical form. -/
theorem Memory.wf_set {a : Nat} {v : Byte} : ∀ {m : Memory}, m.wf = true → (m.set a v).wf = true
  | [], _ => by
    simp only [Memory.set]; split
    · rfl
    · rename_i h; exact Memory.wf_cons.mpr ⟨h, by simp, rfl⟩
  | (x, w) :: m, h => by
    obtain ⟨hw, hb, hm⟩ := Memory.wf_cons.mp h
    simp only [Memory.set]
    split_ifs with h1 h2 h3 h4
    · exact h
    · refine Memory.wf_cons.mpr ⟨h2, ?_, h⟩
      intro c hc
      rcases List.mem_cons.mp hc with rfl | hc
      · exact h1
      · exact lt_trans h1 (hb c hc)
    · exact hm
    · subst h3; exact Memory.wf_cons.mpr ⟨h4, hb, hm⟩
    · exact Memory.wf_cons.mpr ⟨hw, Memory.set_bound (by omega) hb, Memory.wf_set hm⟩

/-- A byte read after a byte written. -/
theorem Memory.get_set {a b : Nat} {v : Byte} :
    ∀ {m : Memory}, m.wf = true → (m.set a v).get b = if b = a then v else m.get b
  | [], _ => by
    simp only [Memory.set]
    split_ifs with h1 h2 h2
    · simp [Memory.get, h1]
    · rfl
    · simp [Memory.get, h2]
    · have : a ≠ b := fun e => h2 e.symm
      simp [Memory.get, this]
  | (x, w) :: m, h => by
    obtain ⟨hw, hb, hm⟩ := Memory.wf_cons.mp h
    have ih := Memory.get_set (a := a) (b := b) (v := v) hm
    simp only [Memory.set]
    split_ifs with h1 h2 hba hba h3 h4 hba hba hba
    · subst hba
      have : Memory.get ((x, w) :: m) b = 0#8 := by
        apply Memory.get_eq_zero_of_lt
        intro c hc
        rcases List.mem_cons.mp hc with rfl | hc
        · exact h1
        · exact lt_trans h1 (hb c hc)
      rw [this, h2]
    · rfl
    · subst hba; simp [Memory.get]
    · have : a ≠ b := fun e => hba e.symm
      simp [Memory.get, this]
    · subst h3; subst hba
      rw [h4]; exact Memory.get_eq_zero_of_lt hb
    · subst h3
      have : a ≠ b := fun e => hba e.symm
      simp [Memory.get, this]
    · subst h3; subst hba; simp [Memory.get]
    · subst h3
      have : a ≠ b := fun e => hba e.symm
      simp [Memory.get, this]
    · subst hba
      have : x ≠ b := fun e => h3 e.symm
      simp only [Memory.get, this, if_false]
      simpa using ih
    · simp only [Memory.get]
      split
      · rfl
      · simpa [hba] using ih

theorem Memory.get_set_self {m : Memory} (h : m.wf = true) (a : Nat) (v : Byte) : (m.set a v).get a = v := by
  simp [Memory.get_set h]

theorem Memory.get_set_other {m : Memory} (h : m.wf = true) {a b : Nat} (v : Byte) (hb : b ≠ a) :
    (m.set a v).get b = m.get b := by
  simp [Memory.get_set h, hb]

/-! ### Clearing -/

theorem Memory.wf_clearWhere (p : Nat → Bool) : ∀ {m : Memory}, m.wf = true → (m.clearWhere p).wf = true
  | [], _ => rfl
  | (x, w) :: m, h => by
    obtain ⟨hw, hb, hm⟩ := Memory.wf_cons.mp h
    have ih := Memory.wf_clearWhere p hm
    unfold Memory.clearWhere at ih ⊢
    rw [List.filter_cons]
    split
    · exact Memory.wf_cons.mpr ⟨hw, fun c hc => hb c (List.mem_filter.mp hc).1, ih⟩
    · exact ih

/-- A byte read after a clearing. -/
theorem Memory.get_clearWhere (p : Nat → Bool) (a : Nat) : ∀ (m : Memory), (m.clearWhere p).get a = if p a then 0#8 else m.get a
  | [] => by unfold Memory.clearWhere; simp [Memory.get]
  | (x, w) :: m => by
    have ih := Memory.get_clearWhere p a m
    unfold Memory.clearWhere at ih ⊢
    rw [List.filter_cons]
    by_cases hx : p x = true
    · simp only [hx, Bool.not_true, Bool.false_eq_true, if_false, ih, Memory.get]
      by_cases hxa : x = a
      · subst hxa; simp [hx]
      · simp [hxa]
    · simp only [Bool.not_eq_true] at hx
      simp only [hx, Bool.not_false, if_true, Memory.get, ih]
      by_cases hxa : x = a
      · subst hxa; simp [hx]
      · simp [hxa]

/-! ### Words -/

/-- A byte written or not keeps the canonical form. -/
theorem Memory.wf_setIf {m : Memory} (h : m.wf = true) (c : Bool) (a : Nat) (v : Byte) :
    (if c then m.set a v else m).wf = true := by
  cases c
  · exact h
  · exact Memory.wf_set h

/-- A byte read after a byte written or not. -/
theorem Memory.get_setIf {m : Memory} (h : m.wf = true) (c : Bool) (a b : Nat) (v : Byte) :
    (if c then m.set a v else m).get b = if b = a ∧ c then v else m.get b := by
  cases c
  · simp
  · simp [Memory.get_set h]

theorem Memory.wf_setEnabled {m : Memory} (h : m.wf = true) (a : Nat) (w : Word) (e : BitVec 4) :
    (m.setEnabled a w e).wf = true :=
  Memory.wf_setIf (Memory.wf_setIf (Memory.wf_setIf (Memory.wf_setIf h _ _ _) _ _ _) _ _ _) _ _ _

/-- A byte read after a write of a word under byte enables (R157). -/
theorem Memory.get_setEnabled {m : Memory} (h : m.wf = true) (a b : Nat) (w : Word) (e : BitVec 4) :
    (m.setEnabled a w e).get b =
      if b = a ∧ e.getLsbD 0 then w.byte 0
      else if b = a + 1 ∧ e.getLsbD 1 then w.byte 1
      else if b = a + 2 ∧ e.getLsbD 2 then w.byte 2
      else if b = a + 3 ∧ e.getLsbD 3 then w.byte 3
      else m.get b := by
  have h0 := Memory.wf_setIf h (e.getLsbD 0) a (w.byte 0)
  have h1 := Memory.wf_setIf h0 (e.getLsbD 1) (a + 1) (w.byte 1)
  have h2 := Memory.wf_setIf h1 (e.getLsbD 2) (a + 2) (w.byte 2)
  unfold Memory.setEnabled
  simp only
  rw [Memory.get_setIf h2, Memory.get_setIf h1, Memory.get_setIf h0, Memory.get_setIf h]
  repeat' split
  all_goals first | rfl | omega

theorem Memory.wf_setWord {m : Memory} (h : m.wf = true) (a : Nat) (w : Word) : (m.setWord a w).wf = true :=
  Memory.wf_setEnabled h a w _

/-- A byte read after a whole word written. -/
theorem Memory.get_setWord {m : Memory} (h : m.wf = true) (a b : Nat) (w : Word) :
    (m.setWord a w).get b = if a ≤ b ∧ b < a + 4 then w.byte (b - a) else m.get b := by
  unfold Memory.setWord
  rw [Memory.get_setEnabled h]
  have e0 : (0xF#4).getLsbD 0 = true := by decide
  have e1 : (0xF#4).getLsbD 1 = true := by decide
  have e2 : (0xF#4).getLsbD 2 = true := by decide
  have e3 : (0xF#4).getLsbD 3 = true := by decide
  simp only [e0, e1, e2, e3, and_true]
  by_cases hb : a ≤ b ∧ b < a + 4
  · rw [if_pos hb]
    obtain ⟨k, rfl, hk⟩ : ∃ k, b = a + k ∧ k < 4 := ⟨b - a, by omega, by omega⟩
    interval_cases k <;> simp
  · rw [if_neg hb]
    repeat' split
    all_goals first | rfl | omega

theorem Memory.get_setWord_outside {m : Memory} (h : m.wf = true) {a b : Nat} (w : Word) (hb : b < a ∨ a + 4 ≤ b) :
    (m.setWord a w).get b = m.get b := by
  rw [Memory.get_setWord h, if_neg (by omega)]

/-- A word is its four bytes. -/
theorem Word.ofBytes_byte (w : Word) : Word.ofBytes (w.byte 0) (w.byte 1) (w.byte 2) (w.byte 3) = w := by
  apply BitVec.eq_of_toNat_eq
  have := w.isLt
  simp only [Word.ofBytes, Word.byte, BitVec.toNat_append, BitVec.extractLsb'_toNat]
  simp only [Nat.shiftRight_eq_div_pow]
  rw [← Nat.shiftLeft_add_eq_or_of_lt (by omega), ← Nat.shiftLeft_add_eq_or_of_lt (by omega),
    ← Nat.shiftLeft_add_eq_or_of_lt (by omega)]
  simp only [Nat.shiftLeft_eq]
  omega

theorem Memory.word_setWord {m : Memory} (h : m.wf = true) (a : Nat) (w : Word) : (m.setWord a w).word a = w := by
  unfold Memory.word
  rw [Memory.get_setWord h, Memory.get_setWord h, Memory.get_setWord h, Memory.get_setWord h]
  have e : ∀ k, k < 4 → (if a ≤ a + k ∧ a + k < a + 4 then w.byte (a + k - a) else m.get (a + k)) = w.byte k := by
    intro k hk
    rw [if_pos (by omega)]
    congr 1; omega
  have e0 := e 0 (by omega)
  simp only [Nat.add_zero] at e0
  rw [e0, e 1 (by omega), e 2 (by omega), e 3 (by omega)]
  exact Word.ofBytes_byte w

theorem Memory.word_setWord_outside {m : Memory} (h : m.wf = true) {a b : Nat} (w : Word) (hb : b + 4 ≤ a ∨ a + 4 ≤ b) :
    (m.setWord a w).word b = m.word b := by
  unfold Memory.word
  rw [Memory.get_setWord_outside h w (by omega), Memory.get_setWord_outside h w (by omega),
    Memory.get_setWord_outside h w (by omega), Memory.get_setWord_outside h w (by omega)]

theorem Memory.wf_setWords : ∀ (ws : List Word) {m : Memory} (a : Nat), m.wf = true → (m.setWords a ws).wf = true
  | [], _, _, h => h
  | w :: ws, _, a, h => Memory.wf_setWords ws (a + 4) (Memory.wf_setWord h a w)

theorem Memory.get_setWords_outside :
    ∀ (ws : List Word) {m : Memory} (a : Nat), m.wf = true → ∀ {b : Nat}, b < a ∨ a + 4 * ws.length ≤ b →
      (m.setWords a ws).get b = m.get b
  | [], _, _, _, _, _ => rfl
  | w :: ws, m, a, h, b, hb => by
    have hl : (w :: ws).length = ws.length + 1 := rfl
    rw [hl] at hb
    unfold Memory.setWords
    rw [Memory.get_setWords_outside ws (a + 4) (Memory.wf_setWord h a w) (by omega)]
    exact Memory.get_setWord_outside h w (by omega)

/-! ### Slots, records and the clearing of attach -/

theorem Memory.wf_setClosed {m : Memory} (h : m.wf = true) (a : Nat) (ws : List Word) : (m.setClosed a ws).wf = true := by
  unfold Memory.setClosed
  exact Memory.wf_setWord (Memory.wf_setWords _ _ (Memory.wf_setWord h _ _)) _ _

/-- A slot or record written changes no byte outside it (R134, R146). -/
theorem Memory.get_setClosed_outside {m : Memory} (h : m.wf = true) {a b : Nat} {ws : List Word} (hw : 0 < ws.length)
    (hb : b < a ∨ a + 4 * ws.length ≤ b) : (m.setClosed a ws).get b = m.get b := by
  unfold Memory.setClosed
  have h1 := Memory.wf_setWord h (a + 4 * (ws.length - 1)) (ws.getLastD 0#32)
  have h2 := Memory.wf_setWords ws.tail.dropLast (a + 4) h1
  have hl : ws.tail.dropLast.length ≤ ws.length - 1 := by simp
  simp only
  rw [Memory.get_setWord_outside h2 _ (by omega), Memory.get_setWords_outside _ _ h1 (by omega),
    Memory.get_setWord_outside h _ (by omega)]

theorem Memory.wf_attachClear {m : Memory} (h : m.wf = true) (p : Nat → Bool) : (m.attachClear p).wf = true := by
  unfold Memory.attachClear
  generalize List.finRange Config.devices = ds
  have h0 := Memory.wf_clearWhere (fun a => Addr.clearedByAttach a && p (a / 4)) h
  revert h0
  generalize m.clearWhere (fun a => Addr.clearedByAttach a && p (a / 4)) = m0
  induction ds generalizing m0 with
  | nil => exact fun h0 => h0
  | cons d ds ih =>
    intro h0
    simp only [List.foldl_cons]
    apply ih
    split
    · exact Memory.wf_setWord h0 _ _
    · exact h0

/-- Canonical memories that read alike are equal. -/
theorem Memory.ext_get : ∀ {m m' : Memory}, m.wf = true → m'.wf = true → (∀ a, m.get a = m'.get a) → m = m'
  | [], [], _, _, _ => rfl
  | [], (x, w) :: m', _, h', e => by
    obtain ⟨hw, _, _⟩ := Memory.wf_cons.mp h'
    have := e x; simp [Memory.get] at this; exact absurd this.symm hw
  | (x, w) :: m, [], h, _, e => by
    obtain ⟨hw, _, _⟩ := Memory.wf_cons.mp h
    have := e x; simp [Memory.get] at this; exact absurd this hw
  | (x, w) :: m, (x', w') :: m', h, h', e => by
    obtain ⟨hw, hb, hm⟩ := Memory.wf_cons.mp h
    obtain ⟨hw', hb', hm'⟩ := Memory.wf_cons.mp h'
    have hx : x = x' := by
      rcases lt_trichotomy x x' with hlt | heq | hgt
      · have e1 := e x
        have : Memory.get ((x', w') :: m') x = 0#8 := by
          apply Memory.get_eq_zero_of_lt
          intro c hc
          rcases List.mem_cons.mp hc with rfl | hc
          · exact hlt
          · exact lt_trans hlt (hb' c hc)
        rw [this] at e1; simp [Memory.get] at e1; exact absurd e1 hw
      · exact heq
      · have e1 := e x'
        have : Memory.get ((x, w) :: m) x' = 0#8 := by
          apply Memory.get_eq_zero_of_lt
          intro c hc
          rcases List.mem_cons.mp hc with rfl | hc
          · exact hgt
          · exact lt_trans hgt (hb c hc)
        rw [this] at e1; simp [Memory.get] at e1; exact absurd e1.symm hw'
    subst hx
    have hww : w = w' := by simpa [Memory.get] using e x
    subst hww
    have : m = m' := by
      apply Memory.ext_get hm hm'
      intro a
      by_cases hxa : x = a
      · subst hxa; rw [Memory.get_eq_zero_of_lt hb, Memory.get_eq_zero_of_lt hb']
      · simpa [Memory.get, hxa] using e a
    rw [this]

end Sys2Proof.Machine
end

