-- ==== Sys2Proof/Laws/State.lean ====
section
/-! SUPPORT. What each update of the part leaves as it was, field by field, and what it makes of the field it changes. -/

namespace Sys2Proof.Machine

/-! ### Part.setCtx -/

@[simp] theorem Part.setCtx_time (s : Part) (n : CardIx) (c : Option Context) : (s.setCtx n c).time = s.time := rfl
@[simp] theorem Part.setCtx_host (s : Part) (n : CardIx) (c : Option Context) : (s.setCtx n c).host = s.host := rfl
@[simp] theorem Part.setCtx_arbiter (s : Part) (n : CardIx) (c : Option Context) : (s.setCtx n c).arbiter = s.arbiter := rfl
@[simp] theorem Part.setCtx_rep (s : Part) (n : CardIx) (c : Option Context) : (s.setCtx n c).rep = s.rep := rfl
@[simp] theorem Part.setCtx_intake (s : Part) (n : CardIx) (c : Option Context) : (s.setCtx n c).intake = s.intake := rfl
@[simp] theorem Part.setCtx_run (s : Part) (n : CardIx) (c : Option Context) : (s.setCtx n c).run = s.run := rfl
@[simp] theorem Part.setCtx_dev (s : Part) (n : CardIx) (c : Option Context) : (s.setCtx n c).dev = s.dev := rfl
@[simp] theorem Part.setCtx_waiting (s : Part) (n : CardIx) (c : Option Context) : (s.setCtx n c).waiting = s.waiting := rfl
@[simp] theorem Part.setCtx_two (s : Part) (n : CardIx) (c : Option Context) : (s.setCtx n c).two = s.two := rfl
@[simp] theorem Part.setCtx_four (s : Part) (n : CardIx) (c : Option Context) : (s.setCtx n c).four = s.four := rfl
@[simp] theorem Part.setCtx_freeCount (s : Part) (n : CardIx) (c : Option Context) : (s.setCtx n c).freeCount = s.freeCount := rfl

/-! ### Part.setWaiting -/

@[simp] theorem Part.setWaiting_time (s : Part) (n : CardIx) (b : Option Bank) : (s.setWaiting n b).time = s.time := rfl
@[simp] theorem Part.setWaiting_host (s : Part) (n : CardIx) (b : Option Bank) : (s.setWaiting n b).host = s.host := rfl
@[simp] theorem Part.setWaiting_arbiter (s : Part) (n : CardIx) (b : Option Bank) : (s.setWaiting n b).arbiter = s.arbiter := rfl
@[simp] theorem Part.setWaiting_rep (s : Part) (n : CardIx) (b : Option Bank) : (s.setWaiting n b).rep = s.rep := rfl
@[simp] theorem Part.setWaiting_intake (s : Part) (n : CardIx) (b : Option Bank) : (s.setWaiting n b).intake = s.intake := rfl
@[simp] theorem Part.setWaiting_run (s : Part) (n : CardIx) (b : Option Bank) : (s.setWaiting n b).run = s.run := rfl
@[simp] theorem Part.setWaiting_dev (s : Part) (n : CardIx) (b : Option Bank) : (s.setWaiting n b).dev = s.dev := rfl
@[simp] theorem Part.setWaiting_ctxs (s : Part) (n : CardIx) (b : Option Bank) : (s.setWaiting n b).ctxs = s.ctxs := rfl
@[simp] theorem Part.setWaiting_two (s : Part) (n : CardIx) (b : Option Bank) : (s.setWaiting n b).two = s.two := rfl
@[simp] theorem Part.setWaiting_four (s : Part) (n : CardIx) (b : Option Bank) : (s.setWaiting n b).four = s.four := rfl
@[simp] theorem Part.setWaiting_freeCount (s : Part) (n : CardIx) (b : Option Bank) : (s.setWaiting n b).freeCount = s.freeCount := rfl

/-! ### Part.setTwo -/

@[simp] theorem Part.setTwo_time (s : Part) (p : TwoIx) (t : TwoWire) : (s.setTwo p t).time = s.time := rfl
@[simp] theorem Part.setTwo_host (s : Part) (p : TwoIx) (t : TwoWire) : (s.setTwo p t).host = s.host := rfl
@[simp] theorem Part.setTwo_arbiter (s : Part) (p : TwoIx) (t : TwoWire) : (s.setTwo p t).arbiter = s.arbiter := rfl
@[simp] theorem Part.setTwo_rep (s : Part) (p : TwoIx) (t : TwoWire) : (s.setTwo p t).rep = s.rep := rfl
@[simp] theorem Part.setTwo_intake (s : Part) (p : TwoIx) (t : TwoWire) : (s.setTwo p t).intake = s.intake := rfl
@[simp] theorem Part.setTwo_run (s : Part) (p : TwoIx) (t : TwoWire) : (s.setTwo p t).run = s.run := rfl
@[simp] theorem Part.setTwo_dev (s : Part) (p : TwoIx) (t : TwoWire) : (s.setTwo p t).dev = s.dev := rfl
@[simp] theorem Part.setTwo_ctxs (s : Part) (p : TwoIx) (t : TwoWire) : (s.setTwo p t).ctxs = s.ctxs := rfl
@[simp] theorem Part.setTwo_waiting (s : Part) (p : TwoIx) (t : TwoWire) : (s.setTwo p t).waiting = s.waiting := rfl
@[simp] theorem Part.setTwo_four (s : Part) (p : TwoIx) (t : TwoWire) : (s.setTwo p t).four = s.four := rfl
@[simp] theorem Part.setTwo_freeCount (s : Part) (p : TwoIx) (t : TwoWire) : (s.setTwo p t).freeCount = s.freeCount := rfl

/-! ### Part.setFour -/

@[simp] theorem Part.setFour_time (s : Part) (q : FourIx) (t : FourWire) : (s.setFour q t).time = s.time := rfl
@[simp] theorem Part.setFour_host (s : Part) (q : FourIx) (t : FourWire) : (s.setFour q t).host = s.host := rfl
@[simp] theorem Part.setFour_arbiter (s : Part) (q : FourIx) (t : FourWire) : (s.setFour q t).arbiter = s.arbiter := rfl
@[simp] theorem Part.setFour_rep (s : Part) (q : FourIx) (t : FourWire) : (s.setFour q t).rep = s.rep := rfl
@[simp] theorem Part.setFour_intake (s : Part) (q : FourIx) (t : FourWire) : (s.setFour q t).intake = s.intake := rfl
@[simp] theorem Part.setFour_run (s : Part) (q : FourIx) (t : FourWire) : (s.setFour q t).run = s.run := rfl
@[simp] theorem Part.setFour_dev (s : Part) (q : FourIx) (t : FourWire) : (s.setFour q t).dev = s.dev := rfl
@[simp] theorem Part.setFour_ctxs (s : Part) (q : FourIx) (t : FourWire) : (s.setFour q t).ctxs = s.ctxs := rfl
@[simp] theorem Part.setFour_waiting (s : Part) (q : FourIx) (t : FourWire) : (s.setFour q t).waiting = s.waiting := rfl
@[simp] theorem Part.setFour_two (s : Part) (q : FourIx) (t : FourWire) : (s.setFour q t).two = s.two := rfl
@[simp] theorem Part.setFour_freeCount (s : Part) (q : FourIx) (t : FourWire) : (s.setFour q t).freeCount = s.freeCount := rfl

/-! ### Part.report -/

@[simp] theorem Part.report_time (s : Part) (f : Reports → Reports) : (s.report f).time = s.time := rfl
@[simp] theorem Part.report_host (s : Part) (f : Reports → Reports) : (s.report f).host = s.host := rfl
@[simp] theorem Part.report_arbiter (s : Part) (f : Reports → Reports) : (s.report f).arbiter = s.arbiter := rfl
@[simp] theorem Part.report_intake (s : Part) (f : Reports → Reports) : (s.report f).intake = s.intake := rfl
@[simp] theorem Part.report_run (s : Part) (f : Reports → Reports) : (s.report f).run = s.run := rfl
@[simp] theorem Part.report_dev (s : Part) (f : Reports → Reports) : (s.report f).dev = s.dev := rfl
@[simp] theorem Part.report_ctxs (s : Part) (f : Reports → Reports) : (s.report f).ctxs = s.ctxs := rfl
@[simp] theorem Part.report_waiting (s : Part) (f : Reports → Reports) : (s.report f).waiting = s.waiting := rfl
@[simp] theorem Part.report_two (s : Part) (f : Reports → Reports) : (s.report f).two = s.two := rfl
@[simp] theorem Part.report_four (s : Part) (f : Reports → Reports) : (s.report f).four = s.four := rfl
@[simp] theorem Part.report_freeCount (s : Part) (f : Reports → Reports) : (s.report f).freeCount = s.freeCount := rfl

/-! ### Part.request -/

@[simp] theorem Part.request_time (s : Part) (x : FaultRecord) : (s.request x).time = s.time := rfl
@[simp] theorem Part.request_host (s : Part) (x : FaultRecord) : (s.request x).host = s.host := rfl
@[simp] theorem Part.request_arbiter (s : Part) (x : FaultRecord) : (s.request x).arbiter = s.arbiter := rfl
@[simp] theorem Part.request_intake (s : Part) (x : FaultRecord) : (s.request x).intake = s.intake := rfl
@[simp] theorem Part.request_run (s : Part) (x : FaultRecord) : (s.request x).run = s.run := rfl
@[simp] theorem Part.request_dev (s : Part) (x : FaultRecord) : (s.request x).dev = s.dev := rfl
@[simp] theorem Part.request_ctxs (s : Part) (x : FaultRecord) : (s.request x).ctxs = s.ctxs := rfl
@[simp] theorem Part.request_waiting (s : Part) (x : FaultRecord) : (s.request x).waiting = s.waiting := rfl
@[simp] theorem Part.request_two (s : Part) (x : FaultRecord) : (s.request x).two = s.two := rfl
@[simp] theorem Part.request_four (s : Part) (x : FaultRecord) : (s.request x).four = s.four := rfl
@[simp] theorem Part.request_freeCount (s : Part) (x : FaultRecord) : (s.request x).freeCount = s.freeCount := rfl

/-! ### Part.tell -/

@[simp] theorem Part.tell_time (s : Part) (l : Latch) : (s.tell l).time = s.time := rfl
@[simp] theorem Part.tell_host (s : Part) (l : Latch) : (s.tell l).host = s.host := rfl
@[simp] theorem Part.tell_arbiter (s : Part) (l : Latch) : (s.tell l).arbiter = s.arbiter := rfl
@[simp] theorem Part.tell_intake (s : Part) (l : Latch) : (s.tell l).intake = s.intake := rfl
@[simp] theorem Part.tell_run (s : Part) (l : Latch) : (s.tell l).run = s.run := rfl
@[simp] theorem Part.tell_dev (s : Part) (l : Latch) : (s.tell l).dev = s.dev := rfl
@[simp] theorem Part.tell_ctxs (s : Part) (l : Latch) : (s.tell l).ctxs = s.ctxs := rfl
@[simp] theorem Part.tell_waiting (s : Part) (l : Latch) : (s.tell l).waiting = s.waiting := rfl
@[simp] theorem Part.tell_two (s : Part) (l : Latch) : (s.tell l).two = s.two := rfl
@[simp] theorem Part.tell_four (s : Part) (l : Latch) : (s.tell l).four = s.four := rfl
@[simp] theorem Part.tell_freeCount (s : Part) (l : Latch) : (s.tell l).freeCount = s.freeCount := rfl

/-! ### Part.writeProgressWord -/

@[simp] theorem Part.writeProgressWord_time (s : Part) (n : CardIx) (o : Nat) (w : Word) : (s.writeProgressWord n o w).time = s.time := rfl
@[simp] theorem Part.writeProgressWord_host (s : Part) (n : CardIx) (o : Nat) (w : Word) : (s.writeProgressWord n o w).host = s.host := rfl
@[simp] theorem Part.writeProgressWord_arbiter (s : Part) (n : CardIx) (o : Nat) (w : Word) : (s.writeProgressWord n o w).arbiter = s.arbiter := rfl
@[simp] theorem Part.writeProgressWord_intake (s : Part) (n : CardIx) (o : Nat) (w : Word) : (s.writeProgressWord n o w).intake = s.intake := rfl
@[simp] theorem Part.writeProgressWord_run (s : Part) (n : CardIx) (o : Nat) (w : Word) : (s.writeProgressWord n o w).run = s.run := rfl
@[simp] theorem Part.writeProgressWord_dev (s : Part) (n : CardIx) (o : Nat) (w : Word) : (s.writeProgressWord n o w).dev = s.dev := rfl
@[simp] theorem Part.writeProgressWord_ctxs (s : Part) (n : CardIx) (o : Nat) (w : Word) : (s.writeProgressWord n o w).ctxs = s.ctxs := rfl
@[simp] theorem Part.writeProgressWord_waiting (s : Part) (n : CardIx) (o : Nat) (w : Word) : (s.writeProgressWord n o w).waiting = s.waiting := rfl
@[simp] theorem Part.writeProgressWord_two (s : Part) (n : CardIx) (o : Nat) (w : Word) : (s.writeProgressWord n o w).two = s.two := rfl
@[simp] theorem Part.writeProgressWord_four (s : Part) (n : CardIx) (o : Nat) (w : Word) : (s.writeProgressWord n o w).four = s.four := rfl
@[simp] theorem Part.writeProgressWord_freeCount (s : Part) (n : CardIx) (o : Nat) (w : Word) : (s.writeProgressWord n o w).freeCount = s.freeCount := rfl

/-! ### Part.writeLive -/

@[simp] theorem Part.writeLive_time (s : Part) (n : CardIx) (c : Context) : (s.writeLive n c).time = s.time := rfl
@[simp] theorem Part.writeLive_host (s : Part) (n : CardIx) (c : Context) : (s.writeLive n c).host = s.host := rfl
@[simp] theorem Part.writeLive_arbiter (s : Part) (n : CardIx) (c : Context) : (s.writeLive n c).arbiter = s.arbiter := rfl
@[simp] theorem Part.writeLive_intake (s : Part) (n : CardIx) (c : Context) : (s.writeLive n c).intake = s.intake := rfl
@[simp] theorem Part.writeLive_run (s : Part) (n : CardIx) (c : Context) : (s.writeLive n c).run = s.run := rfl
@[simp] theorem Part.writeLive_dev (s : Part) (n : CardIx) (c : Context) : (s.writeLive n c).dev = s.dev := rfl
@[simp] theorem Part.writeLive_ctxs (s : Part) (n : CardIx) (c : Context) : (s.writeLive n c).ctxs = s.ctxs := rfl
@[simp] theorem Part.writeLive_waiting (s : Part) (n : CardIx) (c : Context) : (s.writeLive n c).waiting = s.waiting := rfl
@[simp] theorem Part.writeLive_two (s : Part) (n : CardIx) (c : Context) : (s.writeLive n c).two = s.two := rfl
@[simp] theorem Part.writeLive_four (s : Part) (n : CardIx) (c : Context) : (s.writeLive n c).four = s.four := rfl
@[simp] theorem Part.writeLive_freeCount (s : Part) (n : CardIx) (c : Context) : (s.writeLive n c).freeCount = s.freeCount := rfl

@[simp] theorem Part.setCtx_ctxs (s : Part) (n : CardIx) (c : Option Context) :
    (s.setCtx n c).ctxs = s.ctxs.set n.val c n.isLt := rfl
@[simp] theorem Part.setWaiting_waiting (s : Part) (n : CardIx) (b : Option Bank) :
    (s.setWaiting n b).waiting = s.waiting.set n.val b n.isLt := rfl
@[simp] theorem Part.setTwo_two (s : Part) (p : TwoIx) (t : TwoWire) : (s.setTwo p t).two = s.two.set p.val t p.isLt := rfl
@[simp] theorem Part.setFour_four (s : Part) (q : FourIx) (t : FourWire) : (s.setFour q t).four = s.four.set q.val t q.isLt := rfl
@[simp] theorem Part.report_rep (s : Part) (f : Reports → Reports) : (s.report f).rep = f s.rep := rfl
@[simp] theorem Part.request_rep (s : Part) (x : FaultRecord) : (s.request x).rep = s.rep.request s.run.state s.logLevel x := rfl
@[simp] theorem Part.tell_rep (s : Part) (l : Latch) : (s.tell l).rep = s.rep.setLatch l := rfl
@[simp] theorem Part.writeLive_rep (s : Part) (n : CardIx) (c : Context) : (s.writeLive n c).rep = s.rep.writeProgress n c.liveWord := rfl
@[simp] theorem Part.writeProgressWord_rep (s : Part) (n : CardIx) (o : Nat) (w : Word) :
    (s.writeProgressWord n o w).rep = { s.rep with mem := s.rep.mem.setWord (Addr.progress n + o) w } := rfl

/-! ### Reading back -/

/-- The context of a card after another, or it, has been given one. -/
theorem Part.setCtx_ctx (s : Part) (n m : CardIx) (c : Option Context) :
    (s.setCtx n c).ctx m = if m = n then c else s.ctx m := by
  unfold Part.ctx Part.setCtx
  simp only [Fin.getElem_fin, Vector.getElem_set]
  by_cases h : m = n
  · subst h; simp
  · have : n.val ≠ m.val := fun e => h (Fin.ext e.symm)
    simp [h, this]

@[simp] theorem Part.setCtx_ctx_self (s : Part) (n : CardIx) (c : Option Context) : (s.setCtx n c).ctx n = c := by
  simp [Part.setCtx_ctx]

theorem Part.setCtx_ctx_other (s : Part) {n m : CardIx} (c : Option Context) (h : m ≠ n) : (s.setCtx n c).ctx m = s.ctx m := by
  simp [Part.setCtx_ctx, h]

/-- A context depends on the contexts alone. -/
theorem Part.ctx_congr {s t : Part} (h : s.ctxs = t.ctxs) (n : CardIx) : s.ctx n = t.ctx n := by
  unfold Part.ctx; rw [h]

end Sys2Proof.Machine
end

