-- ==== Sys2Proof/Laws/Schedule.lean ====
section
/-! SUPPORT. What the rules for one card can do: they write words of the exchange memory, set latches and done bits, ask for records,
tell of samples, and give the card another context or none.  Whatever relation between parts is closed under these holds between the
part before and after (`CardClosed`); instances of it follow below: nothing but the reports and this card's context changes. -/

namespace Sys2Proof.Machine

/-- A condition on contexts that depends on the debt alone: it goes down with the debt, and holds of a debt raised below its limit.
The condition that always holds is one. -/
structure DebtLike (D : Context → Prop) : Prop where
  mono : ∀ {c c' : Context}, c'.debt ≤ c.debt → D c → D c'
  up : ∀ {c c' : Context}, c.debt < Config.debtLimit → c'.debt ≤ c.debt + 1 → D c'

theorem DebtLike.same {D : Context → Prop} (hD : DebtLike D) {c c' : Context} (h : D c) (e : c'.debt = c.debt) : D c' :=
  hD.mono (le_of_eq e) h

theorem Context.counted_debt (c : Context) (failed : Bool) : (c.counted failed).debt = c.debt := by
  unfold Context.counted
  cases c.last <;> rfl

/-- The four bytes of a word are the part's to write (R156). -/
def ReportWord (a : Nat) : Prop := ∀ i, i < 4 → Memory.ownerOf (a + i) = .report

theorem reportWord_progress (n : CardIx) {o : Nat} (ho : o ≤ 28) : ReportWord (Addr.progress n + o) := by
  intro i hi
  have hn : n.val < 96 := n.isLt
  unfold Memory.ownerOf Addr.progress Addr.card
  repeat' split
  all_goals first | rfl | omega

theorem reportWord_status (d : DevIx) : ReportWord (Addr.status d) := by
  intro i hi
  have hd : d.val < 64 := d.isLt
  unfold Memory.ownerOf Addr.status
  repeat' split
  all_goals first | rfl | omega

theorem reportWord_doneMap (n : CardIx) : ReportWord (Addr.doneMap + 4 * (n.val / 32)) := by
  intro i hi
  have hn : n.val < 96 := n.isLt
  unfold Memory.ownerOf Addr.doneMap
  repeat' split
  all_goals first | rfl | omega

theorem reportWord_slot (k : Nat) {o : Nat} : ReportWord (Addr.slot k + o) := by
  intro i hi
  unfold Memory.ownerOf Addr.slot
  repeat' split
  all_goals first | rfl | omega

/-- A relation between parts that holds across each of the changes the rules for card `n` are made of. -/
structure CardClosed (n : CardIx) (D : Context → Prop) (R : Part → Part → Prop) : Prop where
  refl : ∀ s, R s s
  trans : ∀ {s t u}, R s t → R t u → R s u
  ctx : ∀ s (c : Option Context), (∀ x, c = some x → D x) → R s (s.setCtx n c)
  word : ∀ s a w, ReportWord a → R s (s.report (fun r => { r with mem := r.mem.setWord a w }))
  latch : ∀ s l, R s (s.tell l)
  done : ∀ s d, R s (s.report (fun r => { r with done := d }))
  request : ∀ s f, R s (s.request f)
  told : ∀ s threshold holdoff now, R s (s.report (fun r => r.sampleTold threshold holdoff now))

/-- The condition holds of the context card `n` holds, if it holds one. -/
def DAt (D : Context → Prop) (n : CardIx) (s : Part) : Prop := ∀ c, s.ctx n = some c → D c

variable {n : CardIx} {D : Context → Prop} {R : Part → Part → Prop}

theorem DAt.set {s : Part} {c : Context} (h : D c) : DAt D n (s.setCtx n (some c)) := by
  intro x hx; rw [Part.setCtx_ctx_self] at hx; cases hx; exact h

theorem DAt.free {s : Part} : DAt D n (s.setCtx n none) := by
  intro x hx; rw [Part.setCtx_ctx_self] at hx; cases hx

/-- Splits a conditional and leaves each branch. -/
theorem ite_work {p : Prop} [Decidable p] {s : Part} {a b : Part × Work}
    (ha : R s a.1 ∧ DAt D n a.1) (hb : R s b.1 ∧ DAt D n b.1) :
    R s (if p then a else b).1 ∧ DAt D n (if p then a else b).1 := by
  split
  · exact ha
  · exact hb

namespace CardClosed

variable (hR : CardClosed n D R)
include hR

theorem put (s : Part) {c : Context} (h : D c) : R s (s.setCtx n (some c)) :=
  hR.ctx s _ (fun x hx => by cases hx; exact h)

theorem drop (s : Part) : R s (s.setCtx n none) := hR.ctx s _ (fun x hx => by cases hx)

theorem words (s : Part) (a : Nat) (ws : List Word) (ha : ∀ k, k < ws.length → ReportWord (a + 4 * k)) :
    R s (s.report (fun r => { r with mem := r.mem.setWords a ws })) := by
  induction ws generalizing s a with
  | nil => exact hR.refl s
  | cons w ws ih =>
    refine hR.trans (hR.word s a w (ha 0 (by simp))) (ih _ (a + 4) (fun k hk => ?_))
    have := ha (k + 1) (by simp only [List.length_cons]; omega)
    rwa [show a + 4 * (k + 1) = a + 4 + 4 * k by omega] at this

theorem closed (s : Part) (a : Nat) (ws : List Word) (ha : ∀ o, ReportWord (a + o)) :
    R s (s.report (fun r => { r with mem := r.mem.setClosed a ws })) :=
  hR.trans (hR.word s (a + 4 * (ws.length - 1)) (ws.getLastD 0#32) (ha _))
    (hR.trans (hR.words _ (a + 4) ws.tail.dropLast (fun k _ => by rw [Nat.add_assoc]; exact ha _))
      (hR.word _ a (ws.headD 0#32) (ha 0)))

theorem progressWord (s : Part) (m : CardIx) (o : Nat) (w : Word) (ho : o ≤ 28) : R s (s.writeProgressWord m o w) :=
  hR.word s _ w (reportWord_progress m ho)

theorem live (s : Part) (m : CardIx) (c : Context) : R s (s.writeLive m c) :=
  hR.word s _ _ (reportWord_progress m (o := 0) (by omega))

theorem setDone (s : Part) (m : CardIx) : R s (s.report (fun r => r.setDone m)) :=
  hR.trans (hR.done s (s.rep.done ||| (1#96 <<< m.val))) (hR.trans (hR.word _ _ _ (reportWord_doneMap m)) (hR.latch _ .done))

theorem clearDone (s : Part) (m : CardIx) : R s (s.report (fun r => r.clearDone m)) :=
  hR.trans (hR.done s (s.rep.done &&& ~~~(1#96 <<< m.val))) (hR.word _ _ _ (reportWord_doneMap m))

theorem endWord (s : Part) (m : CardIx) (w : Word) : R s (s.report (fun r => r.endWord m w)) :=
  hR.trans (hR.word s _ w (reportWord_progress m (o := 0) (by omega))) (hR.setDone _ m)

theorem newGeneration (s : Part) (m : CardIx) : R s (s.report (fun r => r.newGeneration m)) :=
  hR.words s _ _ (fun k hk => by
    rw [Nat.add_assoc]
    exact reportWord_progress m (by simp only [List.length_cons, List.length_nil] at hk; omega))

/-- A card's end: its last writes, and its context freed. -/
theorem endCard (s : Part) (c : Context) (state : ProgressState) (result : ResultCode) :
    R s (s.endCard n c state result) ∧ DAt D n (s.endCard n c state result) :=
  ⟨hR.trans (hR.endWord s n _) (hR.drop _), DAt.free⟩

theorem sampleTold (s : Part) (c : Context) : R s (s.sampleTold c) := by
  unfold Part.sampleTold
  split
  · split
    · exact hR.told s _ _ _
    · exact hR.refl s
  · exact hR.refl s

theorem writeSample (s : Part) (c : Context) (la : LastAttempt) (code : ResultCode) (data : List Byte) (o : Bool) :
    R s (s.writeSample n c la code data o).part :=
  hR.trans (hR.closed s _ _ (fun _ => reportWord_slot _)) (hR.trans (hR.progressWord _ n 4 _ (by omega)) (hR.sampleTold _ _))

theorem resultSample (s : Part) (c : Context) (code : ResultCode) (data : List Byte) :
    R s (s.resultSample n c code data).part ∧ (s.resultSample n c code data).ctx.debt = c.debt := by
  unfold Part.resultSample
  split
  · exact ⟨hR.refl s, rfl⟩
  · split
    · exact ⟨hR.refl s, rfl⟩
    · simp only
      split
      · exact ⟨hR.request s _, rfl⟩
      · split
        · exact ⟨hR.progressWord s n 4 _ (by omega), rfl⟩
        · exact ⟨hR.writeSample s c _ code data _, rfl⟩

theorem writeCounters (s : Part) (c : Context) (failed : Bool) : R s (s.writeCounters n c failed) := by
  unfold Part.writeCounters
  have h0 : R s (if c.last.isSome then s.writeLive n c else s) := by
    split
    · exact hR.live s n c
    · exact hR.refl s
  have h1 := hR.trans h0 (hR.progressWord _ n 8 c.run (by omega))
  have h2 : R s (if failed then ((if c.last.isSome then s.writeLive n c else s).writeProgressWord n 8 c.run).writeProgressWord
      n 16 c.failed else (if c.last.isSome then s.writeLive n c else s).writeProgressWord n 8 c.run) := by
    split
    · exact hR.trans h1 (hR.progressWord _ n 16 c.failed (by omega))
    · exact h1
  simp only
  split
  · exact h2
  · exact hR.trans h2 (hR.trans (hR.progressWord _ n 20 _ (by omega)) (hR.trans (hR.progressWord _ n 24 _ (by omega)) (hR.progressWord _ n 28 _ (by omega))))

variable (hD : DebtLike D)
include hD

theorem nextInstance (s : Part) {c : Context} (f : Fresh) (h : D c) :
    R s (s.nextInstance n c f).1 ∧ DAt D n (s.nextInstance n c f).1 := by
  have h' : D { c.serve c.j with phase := .sleeping } := hD.same h rfl
  exact ⟨hR.put s h', DAt.set h'⟩

/-- The decision after an instance end. -/
theorem afterEnd (s : Part) {c : Context} (code : ResultCode) (invalid : Bool) (f : Fresh) (h : D c) :
    R s (s.afterEnd n c code invalid f).1 ∧ DAt D n (s.afterEnd n c code invalid f).1 := by
  unfold Part.afterEnd
  split
  · exact hR.endCard s c _ _
  · refine ite_work (hR.endCard s c _ _) ?_
    split
    · exact ite_work (hR.endCard s c _ _) (hR.endCard s c _ _)
    · refine ite_work (hR.endCard s c _ _) (ite_work (hR.endCard s c _ _) ?_)
      refine ite_work ?_ (hR.nextInstance hD s f h)
      have h' : D { c.serve (c.k + 1#32) with phase := .sleeping, debt := c.debt - 1, catchUpRun := true } := hD.mono (Nat.sub_le _ _) h
      exact ⟨hR.trans (hR.live s n _) (hR.put _ h'), DAt.set h'⟩

/-- An instance end. -/
theorem endInstance (s : Part) {c : Context} (code : ResultCode) (data : List Byte) (f : Fresh) (h : D c) :
    R s (s.endInstance n c code data f).1 ∧ DAt D n (s.endInstance n c code data f).1 := by
  unfold Part.endInstance
  obtain ⟨h1, h2⟩ := hR.resultSample s c code data
  have h3 : D ((s.resultSample n c code data).ctx.counted (code != .ok)) :=
    hD.same h ((Context.counted_debt _ _).trans h2)
  have h4 := hR.afterEnd hD (((s.resultSample n c code data).part).writeCounters n
    ((s.resultSample n c code data).ctx.counted (code != .ok)) (code != .ok)) code (s.resultSample n c code data).invalid f h3
  exact ⟨hR.trans h1 (hR.trans (hR.writeCounters _ _ _) h4.1), h4.2⟩

theorem placeInstance (s : Part) {c : Context} (window : Option Time) (f : Fresh) (h : D c) :
    R s (s.placeInstance n c window f).1 ∧ DAt D n (s.placeInstance n c window f).1 := by
  unfold Part.placeInstance
  split
  · rename_i r _
    have h' : D (c.placed r window) := hD.same h rfl
    exact ⟨hR.put s h', DAt.set h'⟩
  · exact hR.endInstance hD s _ [] f h

theorem takeArrival (s : Part) (m : PassMode) {c : Context} (f : Fresh) (h : D c) :
    R s (s.takeArrival m n c f).1 ∧ DAt D n (s.takeArrival m n c f).1 := by
  have h' : D c.advanceArrival := hD.same h rfl
  exact hR.placeInstance hD s _ _ h'

theorem overtakeAtLimit (s : Part) {c : Context} (f : Fresh) (h : D c) :
    R s (s.overtakeAtLimit n c f).1 ∧ DAt D n (s.overtakeAtLimit n c f).1 := by
  have h' : D { c with pendingEnd := .debtLimit } := hD.same h rfl
  have hr := hR.request s (debtLimitRecord s.now n c)
  have he := hR.endCard (s.request (debtLimitRecord s.now n c)) c .failed .debtLimit
  unfold Part.overtakeAtLimit
  simp only
  split
  · exact ⟨hR.trans hr (hR.put _ h'), DAt.set h'⟩
  all_goals exact ⟨hR.trans hr he.1, he.2⟩

theorem takeOvertake (s : Part) (m : PassMode) {c : Context} (f : Fresh) (h : D c) :
    R s (s.takeOvertake m n c f).1 ∧ DAt D n (s.takeOvertake m n c f).1 := by
  unfold Part.takeOvertake
  by_cases hc : c.catchesUp
  · rw [if_pos hc]
    by_cases hl : Config.debtLimit ≤ c.debt
    · rw [if_pos hl]; exact hR.overtakeAtLimit hD s f h
    · rw [if_neg hl]
      have h' : D { c.advanceArrival with debt := c.debt + 1 } := hD.up (c := c) (Nat.lt_of_not_le hl) (le_refl _)
      exact ⟨hR.trans (hR.live s n _) (hR.put _ h'), DAt.set h'⟩
  · rw [if_neg hc]
    have hw : R s (s.writeMissed n c.missOne) := hR.progressWord s n 12 _ (by omega)
    refine ite_work ?_ ?_
    · have h' : D (c.missOne.serve c.j) := hD.same h rfl
      have ha := hR.takeArrival hD (s.writeMissed n c.missOne) m f h'
      exact ⟨hR.trans hw ha.1, ha.2⟩
    · have h' : D c.missOne.advanceArrival := hD.same h rfl
      exact ⟨hR.trans hw (hR.put _ h'), DAt.set h'⟩

theorem takeWindow (s : Part) {c : Context} (f : Fresh) (h : D c) :
    R s (s.takeWindow n c f).1 ∧ DAt D n (s.takeWindow n c f).1 := by
  unfold Part.takeWindow
  refine ite_work ?_ ?_
  · have h' : D { c with late := true, windowExpiry := none } := hD.same h rfl
    exact ⟨hR.put s h', DAt.set h'⟩
  · have hw : R s (s.writeMissed n c.missOne) := hR.progressWord s n 12 _ (by omega)
    have h' : D c.missOne := hD.same h rfl
    have he := fun st re => hR.endCard (s.writeMissed n c.missOne) c.missOne st re
    cases c.kind with
    | once => exact ⟨hR.trans hw (he _ _).1, (he _ _).2⟩
    | every =>
      have hn := hR.nextInstance hD (s.writeMissed n c.missOne) f h'
      exact ite_work ⟨hR.trans hw (he _ _).1, (he _ _).2⟩ ⟨hR.trans hw hn.1, hn.2⟩

theorem takeEvent (s : Part) (m : PassMode) {c : Context} (f : Fresh) (e : TimedEvent) (h : D c) :
    R s (s.takeEvent m n c f e).1 ∧ DAt D n (s.takeEvent m n c f e).1 := by
  cases e with
  | gap =>
    have h' : D { c with gapExpiry := none, fromRetry := true } := hD.same h rfl
    exact hR.placeInstance hD s _ f h'
  | arrival => exact hR.takeArrival hD s m f h
  | window => exact hR.takeWindow hD s f h
  | overtake => exact hR.takeOvertake hD s m f h

theorem workOnce {s : Part} {m : PassMode} {w : Work} {x : Part × Work} (hs : DAt D n s) (hx : s.workOnce m n w = some x) :
    R s x.1 ∧ DAt D n x.1 := by
  unfold Part.workOnce at hx
  split at hx
  · cases hx
  · rename_i c hc
    have h := hs c hc
    split at hx
    · cases hx; exact hR.placeInstance hD s none _ h
    · split at hx
      · cases hx
      · cases hx; exact hR.takeEvent hD s m _ _ h

theorem workFor (fuel : Nat) (m : PassMode) (s : Part) (w : Work) (hs : DAt D n s) :
    R s (workFor fuel m n (s, w)) ∧ DAt D n (workFor fuel m n (s, w)) := by
  induction fuel generalizing s w with
  | zero => exact ⟨hR.refl s, hs⟩
  | succ fuel ih =>
    unfold Machine.workFor
    split
    · exact ⟨hR.refl s, hs⟩
    · rename_i x hx
      have h1 := hR.workOnce hD hs hx
      have h2 := ih x.1 x.2 h1.2
      exact ⟨hR.trans h1.1 h2.1, h2.2⟩

/-- All the work left for a card. -/
theorem finish (m : PassMode) (x : Part × Work) (hs : DAt D n x.1) :
    R x.1 (Part.finish m n x) ∧ DAt D n (Part.finish m n x) :=
  hR.workFor hD Config.passBound m x.1 x.2 hs

/-- Work that begins with a change closed under. -/
theorem thenFinish {s : Part} (m : PassMode) {x : Part × Work} (h : R s x.1 ∧ DAt D n x.1) :
    R s (Part.finish m n x) ∧ DAt D n (Part.finish m n x) :=
  let hf := hR.finish hD m x h.2
  ⟨hR.trans h.1 hf.1, hf.2⟩

theorem timedCommand (s : Part) (e : TimedEvent) (hs : DAt D n s) :
    R s (s.timedCommand n e) ∧ DAt D n (s.timedCommand n e) := by
  unfold Part.timedCommand
  split
  · exact ⟨hR.refl s, hs⟩
  · rename_i c hc
    split
    · exact hR.thenFinish hD _ (hR.takeEvent hD s _ _ e (hs c hc))
    · exact ⟨hR.refl s, hs⟩

theorem dueArrival (s : Part) (hs : DAt D n s) : R s (s.dueArrival n) ∧ DAt D n (s.dueArrival n) := by
  unfold Part.dueArrival
  split
  · exact ⟨hR.refl s, hs⟩
  · exact hR.timedCommand hD s _ hs

theorem reresolve (s : Part) (hs : DAt D n s) : R s (s.reresolve n) ∧ DAt D n (s.reresolve n) := by
  unfold Part.reresolve
  split
  · exact ⟨hR.refl s, hs⟩
  · rename_i c hc
    split
    · rename_i r _
      have h' : D (c.placed r c.windowExpiry) := hD.same (hs c hc) rfl
      exact ⟨hR.put s h', DAt.set h'⟩
    · exact hR.thenFinish hD _ (hR.endInstance hD s _ [] _ (hs c hc))

end CardClosed

/-! ### Several cards -/

/-- A relation closed under the rules of every card. -/
def AllClosed (D : Context → Prop) (R : Part → Part → Prop) : Prop := ∀ n, CardClosed n D R

/-- The condition holds of every context held. -/
def DAll (D : Context → Prop) (s : Part) : Prop := ∀ n, DAt D n s

/-- A relation closed under every card's rules that carries the condition on all contexts with it. -/
def Carried (D : Context → Prop) (R : Part → Part → Prop) (s t : Part) : Prop := R s t ∧ (DAll D s → DAll D t)

theorem Carried.closed (hR : AllClosed D R) (n : CardIx) : CardClosed n D (Carried D R) where
  refl s := ⟨(hR n).refl s, id⟩
  trans h h' := ⟨(hR n).trans h.1 h'.1, fun d => h'.2 (h.2 d)⟩
  ctx s c hc := by
    refine ⟨(hR n).ctx s c hc, fun d m x hx => ?_⟩
    by_cases hm : m = n
    · subst hm; rw [Part.setCtx_ctx_self] at hx; exact hc x hx
    · rw [Part.setCtx_ctx_other s c hm] at hx; exact d m x hx
  word s a w ha := ⟨(hR n).word s a w ha, fun d => d⟩
  latch s l := ⟨(hR n).latch s l, fun d => d⟩
  done s x := ⟨(hR n).done s x, fun d => d⟩
  request s f := ⟨(hR n).request s f, fun d => d⟩
  told s a b c := ⟨(hR n).told s a b c, fun d => d⟩

/-- A fold over cards, each step of which is closed under. -/
theorem foldl_carried (hR : AllClosed D R) (f : Part → CardIx → Part)
    (hf : ∀ s n, DAll D s → Carried D R s (f s n)) :
    ∀ (ns : List CardIx) (s : Part), DAll D s → Carried D R s (ns.foldl f s)
  | [], s, _ => ⟨(hR 0).refl s, id⟩
  | n :: ns, s, hs => by
    have h1 := hf s n hs
    have h2 := foldl_carried hR f hf ns (f s n) (h1.2 hs)
    exact ⟨(hR 0).trans h1.1 h2.1, fun d => h2.2 (h1.2 d)⟩

theorem reresolveWhere_carried (hR : AllClosed D R) (hD : DebtLike D) (s : Part) (p : Context → Bool) (hs : DAll D s) :
    Carried D R s (s.reresolveWhere p) :=
  foldl_carried hR Part.reresolve (fun t n ht => ((Carried.closed hR n).reresolve hD t (ht n)).1) _ s hs

theorem failReadyList_carried (hR : AllClosed D R) (hD : DebtLike D) (s : Part) (p : PortIx) (hs : DAll D s) :
    Carried D R s (s.failReadyList p) := by
  unfold Part.failReadyList
  refine foldl_carried hR _ (fun t n ht => ?_) _ s hs
  split
  · exact ⟨(hR n).refl t, id⟩
  · rename_i c hc
    exact ((Carried.closed hR n).thenFinish hD _ ((Carried.closed hR n).endInstance hD t _ [] _ (ht n c hc))).1

/-! ### The frame of one card's rules -/

/-- Between two parts nothing but the reports and card `n`'s context differs. -/
structure OnlyCard (n : CardIx) (s t : Part) : Prop where
  time : t.time = s.time
  host : t.host = s.host
  intake : t.intake = s.intake
  run : t.run = s.run
  dev : t.dev = s.dev
  waiting : t.waiting = s.waiting
  two : t.two = s.two
  four : t.four = s.four
  freeCount : t.freeCount = s.freeCount
  ctx : ∀ m, m ≠ n → t.ctx m = s.ctx m

/-- No condition. -/
def Always (_ : Context) : Prop := True

theorem always_debtLike : DebtLike Always := ⟨fun _ _ => trivial, fun _ _ => trivial⟩

theorem dAt_always (n : CardIx) (s : Part) : DAt Always n s := fun _ _ => trivial

theorem onlyCard_closed (n : CardIx) : CardClosed n Always (OnlyCard n) where
  refl _ := ⟨rfl, rfl, rfl, rfl, rfl, rfl, rfl, rfl, rfl, fun _ _ => rfl⟩
  trans h h' :=
    ⟨h'.time.trans h.time, h'.host.trans h.host, h'.intake.trans h.intake, h'.run.trans h.run, h'.dev.trans h.dev,
      h'.waiting.trans h.waiting, h'.two.trans h.two, h'.four.trans h.four, h'.freeCount.trans h.freeCount,
      fun m hm => (h'.ctx m hm).trans (h.ctx m hm)⟩
  ctx s c _ := ⟨rfl, rfl, rfl, rfl, rfl, rfl, rfl, rfl, rfl, fun _ hm => Part.setCtx_ctx_other s c hm⟩
  word _ _ _ _ := ⟨rfl, rfl, rfl, rfl, rfl, rfl, rfl, rfl, rfl, fun _ _ => rfl⟩
  latch _ _ := ⟨rfl, rfl, rfl, rfl, rfl, rfl, rfl, rfl, rfl, fun _ _ => rfl⟩
  done _ _ := ⟨rfl, rfl, rfl, rfl, rfl, rfl, rfl, rfl, rfl, fun _ _ => rfl⟩
  request _ _ := ⟨rfl, rfl, rfl, rfl, rfl, rfl, rfl, rfl, rfl, fun _ _ => rfl⟩
  told _ _ _ _ := ⟨rfl, rfl, rfl, rfl, rfl, rfl, rfl, rfl, rfl, fun _ _ => rfl⟩

/-- All the work left for a card changes the reports and the card's context alone. -/
theorem finish_onlyCard (m : PassMode) (n : CardIx) (x : Part × Work) : OnlyCard n x.1 (Part.finish m n x) :=
  ((onlyCard_closed n).finish always_debtLike m x (dAt_always n x.1)).1

/-- So does an instance end. -/
theorem endInstance_onlyCard (s : Part) (n : CardIx) (c : Context) (code : ResultCode) (data : List Byte) (f : Fresh) :
    OnlyCard n s (s.endInstance n c code data f).1 :=
  ((onlyCard_closed n).endInstance always_debtLike s code data f trivial).1

theorem placeInstance_onlyCard (s : Part) (n : CardIx) (c : Context) (window : Option Time) (f : Fresh) :
    OnlyCard n s (s.placeInstance n c window f).1 :=
  ((onlyCard_closed n).placeInstance always_debtLike s window f trivial).1

theorem timedCommand_onlyCard (s : Part) (n : CardIx) (e : TimedEvent) : OnlyCard n s (s.timedCommand n e) :=
  ((onlyCard_closed n).timedCommand always_debtLike s e (dAt_always n s)).1

theorem dueArrival_onlyCard (s : Part) (n : CardIx) : OnlyCard n s (s.dueArrival n) :=
  ((onlyCard_closed n).dueArrival always_debtLike s (dAt_always n s)).1

theorem reresolve_onlyCard (s : Part) (n : CardIx) : OnlyCard n s (s.reresolve n) :=
  ((onlyCard_closed n).reresolve always_debtLike s (dAt_always n s)).1

/-! ### The frame of the rules of any cards -/

/-- Between two parts nothing but the reports and contexts differs. -/
structure OnlyCards (s t : Part) : Prop where
  time : t.time = s.time
  host : t.host = s.host
  intake : t.intake = s.intake
  run : t.run = s.run
  dev : t.dev = s.dev
  waiting : t.waiting = s.waiting
  two : t.two = s.two
  four : t.four = s.four
  freeCount : t.freeCount = s.freeCount

theorem OnlyCard.cards {n : CardIx} {s t : Part} (h : OnlyCard n s t) : OnlyCards s t :=
  ⟨h.time, h.host, h.intake, h.run, h.dev, h.waiting, h.two, h.four, h.freeCount⟩

theorem onlyCards_closed : AllClosed Always OnlyCards := fun _ =>
  { refl := fun _ => ⟨rfl, rfl, rfl, rfl, rfl, rfl, rfl, rfl, rfl⟩
    trans := fun h h' =>
      ⟨h'.time.trans h.time, h'.host.trans h.host, h'.intake.trans h.intake, h'.run.trans h.run, h'.dev.trans h.dev,
        h'.waiting.trans h.waiting, h'.two.trans h.two, h'.four.trans h.four, h'.freeCount.trans h.freeCount⟩
    ctx := fun _ _ _ => ⟨rfl, rfl, rfl, rfl, rfl, rfl, rfl, rfl, rfl⟩
    word := fun _ _ _ _ => ⟨rfl, rfl, rfl, rfl, rfl, rfl, rfl, rfl, rfl⟩
    latch := fun _ _ => ⟨rfl, rfl, rfl, rfl, rfl, rfl, rfl, rfl, rfl⟩
    done := fun _ _ => ⟨rfl, rfl, rfl, rfl, rfl, rfl, rfl, rfl, rfl⟩
    request := fun _ _ => ⟨rfl, rfl, rfl, rfl, rfl, rfl, rfl, rfl, rfl⟩
    told := fun _ _ _ _ => ⟨rfl, rfl, rfl, rfl, rfl, rfl, rfl, rfl, rfl⟩ }

theorem reresolveWhere_onlyCards (s : Part) (p : Context → Bool) : OnlyCards s (s.reresolveWhere p) :=
  (reresolveWhere_carried onlyCards_closed always_debtLike s p (fun _ _ _ => trivial)).1

theorem failReadyList_onlyCards (s : Part) (p : PortIx) : OnlyCards s (s.failReadyList p) :=
  (failReadyList_carried onlyCards_closed always_debtLike s p (fun _ _ _ => trivial)).1

/-! ### Reports alone -/

/-- A condition on the reports that the rules for cards keep. -/
structure RepClosed (P : Reports → Prop) : Prop where
  word : ∀ r a w, P r → P { r with mem := r.mem.setWord a w }
  latch : ∀ r l, P r → P (r.setLatch l)
  done : ∀ r d, P r → P { r with done := d }
  request : ∀ r state level f, P r → P (r.request state level f)
  told : ∀ r threshold holdoff now, P r → P (r.sampleTold threshold holdoff now)

/-- The relation between parts that a condition on the reports gives. -/
def KeepsRep (P : Reports → Prop) (s t : Part) : Prop := P s.rep → P t.rep

theorem keepsRep_closed {P : Reports → Prop} (h : RepClosed P) : AllClosed Always (KeepsRep P) := fun _ =>
  { refl := fun _ p => p
    trans := fun a b p => b (a p)
    ctx := fun _ _ _ p => p
    word := fun s a w _ p => h.word s.rep a w p
    latch := fun s l p => h.latch s.rep l p
    done := fun s d p => h.done s.rep d p
    request := fun s f p => h.request s.rep _ _ f p
    told := fun s a b c p => h.told s.rep a b c p }

end Sys2Proof.Machine
end

