-- ==== Sys2Proof/Laws/Outcomes.lean ====
section
/-! SUPPORT. What the handing on of an attempt's outcome can do: the rules for cards, a change of the Device Status Unit with its status
word, and the entry into STOPPED. -/

namespace Sys2Proof.Machine

/-- A relation closed under the rules for cards, a change of the Device Status Unit, and the entry into STOPPED. -/
structure OutcomeClosed (D : Context → Prop) (R : Part → Part → Prop) : Prop where
  cards : AllClosed D R
  dev : ∀ (s : Part) (u : DeviceUnit), R s { s with dev := u }
  stop : ∀ s : Part, R s s.tryStop

variable {D : Context → Prop} {R : Part → Part → Prop}

theorem Part.tryStop_ctxs (s : Part) : s.tryStop.ctxs = s.ctxs := by
  unfold Part.tryStop
  split <;> rfl

theorem Part.afterAttempt_debt (s : Part) (c : Context) (a : Attempt) (o : AttemptOutcome) (stop : Time) :
    (s.afterAttempt c a o stop).debt = c.debt := by
  unfold Part.afterAttempt
  simp only
  split <;> rfl

namespace OutcomeClosed

variable (hR : OutcomeClosed D R)
include hR

/-- The relation that carries the condition on contexts is closed too. -/
theorem carried : OutcomeClosed D (Carried D R) where
  cards := Carried.closed hR.cards
  dev s u := ⟨hR.dev s u, fun d => d⟩
  stop s := ⟨hR.stop s, fun d n c hc => d n c (by rw [← hc, Part.ctx_congr s.tryStop_ctxs])⟩

theorem changeDevice (s : Part) (u : DeviceUnit) (d : DevIx) : R s (s.changeDevice u d) := by
  unfold Part.changeDevice
  simp only
  split
  · exact hR.dev s u
  · exact (hR.cards 0).trans (hR.dev s u) ((hR.cards 0).word _ _ _ (reportWord_status d))

theorem requestIf (s : Part) (f : Option FaultRecord) : R s (s.requestIf f) := by
  unfold Part.requestIf
  split
  · exact (hR.cards 0).refl s
  · exact (hR.cards 0).request s _

theorem deviceSucceeded (s : Part) (d : DevIx) (setting : Bool) (guardTime : Nat) (stop : Time) :
    R s (s.deviceSucceeded d setting guardTime stop) := hR.changeDevice s _ d

variable (hD : DebtLike D)
include hD

theorem fenceDevice (s : Part) (a : Attempt) (g : Byte) (code : ResultCode) (r : DeviceRecord) (hs : DAll D s) :
    Carried D R s (s.fenceDevice a g code r) := by
  have hC := hR.carried
  have tr := fun {s t u} => (hC.cards 0).trans (s := s) (t := t) (u := u)
  unfold Part.fenceDevice
  simp only
  have h1 := (hC.cards 0).request s (deviceFencedRecord s.now a g code)
  have h2 := tr h1 (hC.requestIf _ ((s.substDecision a.device).record s.now a.device a.card g))
  have h3 := tr h2 (hC.changeDevice _ ((s.substDecision a.device).applyTo
    (s.dev.put a.device { r with health := .fenced }) a.device) a.device)
  exact tr h3 (reresolveWhere_carried hR.cards hD _ _ (h3.2 hs))

theorem deviceFailed (s : Part) (a : Attempt) (g : Byte) (code : ResultCode) (hs : DAll D s) :
    Carried D R s (s.deviceFailed a g code) := by
  unfold Part.deviceFailed
  simp only
  split
  · exact hR.carried.changeDevice s _ _
  · split
    · exact hR.fenceDevice hD s a g code _ hs
    · exact hR.carried.changeDevice s _ _

theorem actOn (s : Part) (a : Attempt) {c : Context} (stop : Time) (data : List Byte) (v : Verdict) (hs : DAll D s) (h : D c) :
    Carried D R s (s.actOn a c stop data v).1 := by
  have hC := hR.carried
  have tr := fun {s t u} => (hC.cards 0).trans (s := s) (t := t) (u := u)
  unfold Part.actOn
  cases v with
  | succeed =>
    have h1 := hC.deviceSucceeded s a.device c.flags.setting a.entry.guardTime stop
    exact tr h1 ((hC.cards a.card).endInstance hD _ .ok data .none h).1
  | fail code =>
    have h1 := hR.deviceFailed hD s a c.generation code hs
    exact tr h1 ((hC.cards a.card).endInstance hD _ code [] .none h).1
  | retry => exact (hC.cards a.card).put s (hD.same h rfl)
  | yieldAgain => exact ((hC.cards a.card).placeInstance hD s none .none h).1
  | abandon =>
    simp only
    split
    · exact ((hC.cards a.card).endCard s c _ _).1
    · exact (hC.cards 0).refl s

/-- An attempt's end, whatever its outcome. -/
theorem attemptEnded (s : Part) (port : PortIx) (a : Attempt) (o : AttemptOutcome) (stop : Time) (p : BusPoint) (hs : DAll D s) :
    Carried D R s (s.attemptEnded port a o stop p) := by
  have hC := hR.carried
  have tr := fun {s t u} => (hC.cards 0).trans (s := s) (t := t) (u := u)
  unfold Part.attemptEnded
  split
  · exact hC.stop s
  · rename_i c hc
    have hc' : D (s.afterAttempt c a o stop) := hD.same (hs _ c hc) (Part.afterAttempt_debt s c a o stop)
    have h1 := hC.requestIf s (o.recordKind.map
      (fun kind => attemptRecord kind (c.verdict a.entry.retryLimit o) port a c stop p))
    have h2 := hR.actOn hD _ a stop o.data (c.verdict a.entry.retryLimit o) (h1.2 hs) hc'
    have h12 := tr h1 h2
    have h3 := ((hC.cards a.card).finish hD .plain _ (h12.2 hs a.card)).1
    exact tr h12 (tr h3 (hC.stop _))

end OutcomeClosed

/-! ### The frame of an attempt's end -/

/-- Between two parts nothing but the reports, the contexts, the Device Status Unit and the run state differs. -/
structure OnlyOutcome (s t : Part) : Prop where
  time : t.time = s.time
  host : t.host = s.host
  intake : t.intake = s.intake
  waiting : t.waiting = s.waiting
  two : t.two = s.two
  four : t.four = s.four
  freeCount : t.freeCount = s.freeCount

theorem onlyOutcome_closed : OutcomeClosed Always OnlyOutcome where
  cards := fun _ =>
    { refl := fun _ => ⟨rfl, rfl, rfl, rfl, rfl, rfl, rfl⟩
      trans := fun h h' =>
        ⟨h'.time.trans h.time, h'.host.trans h.host, h'.intake.trans h.intake, h'.waiting.trans h.waiting,
          h'.two.trans h.two, h'.four.trans h.four, h'.freeCount.trans h.freeCount⟩
      ctx := fun _ _ _ => ⟨rfl, rfl, rfl, rfl, rfl, rfl, rfl⟩
      word := fun _ _ _ _ => ⟨rfl, rfl, rfl, rfl, rfl, rfl, rfl⟩
      latch := fun _ _ => ⟨rfl, rfl, rfl, rfl, rfl, rfl, rfl⟩
      done := fun _ _ => ⟨rfl, rfl, rfl, rfl, rfl, rfl, rfl⟩
      request := fun _ _ => ⟨rfl, rfl, rfl, rfl, rfl, rfl, rfl⟩
      told := fun _ _ _ _ => ⟨rfl, rfl, rfl, rfl, rfl, rfl, rfl⟩ }
  dev := fun _ _ => ⟨rfl, rfl, rfl, rfl, rfl, rfl, rfl⟩
  stop := fun s => by unfold Part.tryStop; split <;> exact ⟨rfl, rfl, rfl, rfl, rfl, rfl, rfl⟩

/-- The end of an attempt changes nothing of the ports, the Intake Unit, the host port and the time. -/
theorem attemptEnded_onlyOutcome (s : Part) (port : PortIx) (a : Attempt) (o : AttemptOutcome) (stop : Time) (p : BusPoint) :
    OnlyOutcome s (s.attemptEnded port a o stop p) :=
  (onlyOutcome_closed.attemptEnded always_debtLike s port a o stop p (fun _ _ _ => trivial)).1

/-- A condition on the reports that the rules for cards keep is kept by outcomes. -/
theorem keepsRep_outcome {P : Reports → Prop} (h : RepClosed P) : OutcomeClosed Always (KeepsRep P) where
  cards := keepsRep_closed h
  dev := fun _ _ p => p
  stop := fun s p => by
    unfold Part.tryStop
    split
    · exact h.latch _ _ p
    · exact p

theorem attemptEnded_keepsRep {P : Reports → Prop} (h : RepClosed P) (s : Part) (port : PortIx) (a : Attempt) (o : AttemptOutcome)
    (stop : Time) (p : BusPoint) (hs : P s.rep) : P (s.attemptEnded port a o stop p).rep :=
  ((keepsRep_outcome h).attemptEnded always_debtLike s port a o stop p (fun _ _ _ => trivial)).1 hs

end Sys2Proof.Machine
end

