-- ==== Sys2Proof/Laws/Reports.lean ====
section
/-! SUPPORT. Conditions on the reports that the rules for cards keep: the canonical form of the memory, the bounds of the request queue
and of the tally; the condition on contexts that bounds the debt; and what a rule for one card does to the number of contexts. -/

namespace Sys2Proof.Machine

/-! ### The changes of the Fault Log Unit and the Attention Unit -/

/-- A request leaves all but the queue, and on a full queue the lost count, its mirror and CAUSE.FAULT, as it was (R141). -/
theorem Reports.request_cases (r : Reports) (state : RunState) (level : LogLevel) (f : FaultRecord) :
    r.request state level f = r ∨
      (r.request state level f = { r with queue := r.queue ++ [f] } ∧ r.queue.length < Config.queueEntries) ∨
      r.request state level f = r.loseRecord := by
  unfold Reports.request
  split
  · exact Or.inl rfl
  · split
    · exact Or.inl rfl
    · split
      · rename_i h; exact Or.inr (Or.inl ⟨rfl, h⟩)
      · exact Or.inr (Or.inr rfl)

/-- A sample told changes the tally, the holdoff timer and CAUSE alone (R153). -/
theorem Reports.sampleTold_frame (r : Reports) (threshold holdoff : Nat) (now : Time) :
    (r.sampleTold threshold holdoff now).mem = r.mem ∧ (r.sampleTold threshold holdoff now).queue = r.queue ∧
      (r.sampleTold threshold holdoff now).done = r.done ∧ (r.sampleTold threshold holdoff now).enable = r.enable ∧
      (r.sampleTold threshold holdoff now).tally ≤ 255 := by
  unfold Reports.sampleTold
  split
  · exact ⟨rfl, rfl, rfl, rfl, Nat.min_le_left _ _⟩
  · simp only
    split <;> exact ⟨rfl, rfl, rfl, rfl, Nat.min_le_left _ _⟩

/-! ### Conditions that are kept -/

/-- The canonical form of the memory. -/
theorem memWf_closed : RepClosed (fun r => r.mem.wf = true) where
  word _ _ _ h := Memory.wf_setWord h _ _
  latch _ _ h := h
  done _ _ h := h
  request r state level f h := by
    rcases Reports.request_cases r state level f with e | ⟨e, _⟩ | e <;> rw [e]
    · exact h
    · exact h
    · exact Memory.wf_setWord h _ _
  told r th ho now h := by rw [(Reports.sampleTold_frame r th ho now).1]; exact h

/-- The bounds of the request queue and of the tally. -/
theorem reportBounds_closed : RepClosed (fun r => r.queue.length ≤ Config.queueEntries ∧ r.tally ≤ 255) where
  word _ _ _ h := h
  latch _ _ h := h
  done _ _ h := h
  request r state level f h := by
    rcases Reports.request_cases r state level f with e | ⟨e, hl⟩ | e <;> rw [e]
    · exact h
    · refine ⟨?_, h.2⟩
      simp only [List.length_append, List.length_cons, List.length_nil]
      omega
    · exact h
  told r th ho now h :=
    ⟨by rw [(Reports.sampleTold_frame r th ho now).2.1]; exact h.1, (Reports.sampleTold_frame r th ho now).2.2.2.2⟩

/-- The bound of the debt. -/
theorem debt_debtLike : DebtLike (fun c => c.debt ≤ Config.debtLimit) where
  mono h d := le_trans h d
  up h h' := le_trans h' h

/-- Appending a record changes the memory, the append count and CAUSE alone (R145). -/
theorem Reports.appendRecord_frame (r : Reports) (f : FaultRecord) :
    (r.mem.wf = true → (r.appendRecord f).mem.wf = true) ∧ (r.appendRecord f).queue = r.queue ∧
      (r.appendRecord f).tally = r.tally ∧ (r.appendRecord f).done = r.done ∧ (r.appendRecord f).enable = r.enable ∧
      (r.appendRecord f).appendCount = r.appendCount + 1#32 ∧ (r.appendRecord f).logLost = r.logLost := by
  unfold Reports.appendRecord Reports.writeLogMirror Reports.setLatch
  generalize f.words (r.appendCount + 1#32) = ws
  exact ⟨fun h => Memory.wf_setWord (Memory.wf_setClosed h _ _) _ _, rfl, rfl, rfl, rfl, rfl, rfl⟩

/-- Losing a record changes the memory, the lost count and CAUSE alone (R141, R147). -/
theorem Reports.loseRecord_frame (r : Reports) :
    (r.mem.wf = true → r.loseRecord.mem.wf = true) ∧ r.loseRecord.queue = r.queue ∧ r.loseRecord.tally = r.tally ∧
      r.loseRecord.done = r.done ∧ r.loseRecord.enable = r.enable ∧ r.loseRecord.appendCount = r.appendCount ∧
      r.loseRecord.logLost = r.logLost.saturatingAdd 1 :=
  ⟨fun h => Memory.wf_setWord h _ _, rfl, rfl, rfl, rfl, rfl, rfl⟩

/-- Appending keeps the canonical form and the bounds (R145). -/
theorem Reports.takeRequest_keeps {r : Reports} (h : r.mem.wf = true) (hb : r.queue.length ≤ Config.queueEntries ∧ r.tally ≤ 255) :
    (r.takeRequest).mem.wf = true ∧ (r.takeRequest).queue.length ≤ Config.queueEntries ∧ (r.takeRequest).tally ≤ 255 := by
  unfold Reports.takeRequest
  split
  · exact ⟨h, hb⟩
  · rename_i f rest hq
    have hl : rest.length ≤ Config.queueEntries := by
      have := hb.1; rw [hq] at this; simp only [List.length_cons] at this; omega
    simp only
    split
    · have hf := Reports.appendRecord_frame { r with queue := rest } f
      rw [hf.2.1, hf.2.2.1]
      exact ⟨hf.1 h, hl, hb.2⟩
    · have hf := Reports.loseRecord_frame { r with queue := rest }
      rw [hf.2.1, hf.2.2.1]
      exact ⟨hf.1 h, hl, hb.2⟩

/-! ### The number of contexts -/

/-- Fewer cards hold contexts where every card that holds one held one before. -/
theorem Part.heldContexts_le {s t : Part} (h : ∀ m, (t.ctx m).isSome → (s.ctx m).isSome) : t.heldContexts ≤ s.heldContexts := by
  have e : ∀ u : Part, u.heldContexts = (List.finRange Config.cards).countP (fun m => (u.ctx m).isSome) := by
    intro u
    unfold Part.heldContexts
    have : u.ctxs.toList = (List.finRange Config.cards).map (fun m => u.ctx m) := by
      apply List.ext_getElem
      · simp
      · intro i h1 h2
        simp [Part.ctx]
    rw [this, List.countP_map]
    rfl
  rw [e, e]
  exact List.countP_mono_left (fun m _ hm => h m hm)

/-- A rule for a card that holds a context gives no other card one. -/
theorem OnlyCard.heldContexts_le {n : CardIx} {s t : Part} (h : OnlyCard n s t) (hn : (s.ctx n).isSome) :
    t.heldContexts ≤ s.heldContexts := by
  apply Part.heldContexts_le
  intro m hm
  by_cases e : m = n
  · subst e; exact hn
  · rw [← h.ctx m e]; exact hm

/-! ### Reset -/

/-- The memory right after reset has its canonical form. -/
theorem reset_memoryCanonical : State.reset.part.memoryCanonical := rfl

end Sys2Proof.Machine
end

