-- ==== Sys2Proof/Machine/Arbiter.lean ====
section
/-! DEFINITION. The Exchange Arbiter: its users' rank, the grant of one word access at a time, and which user presents each access (R159 to
R161).  Steps are whole, so no access is left between two steps (log 3); a reset abandons any (Part.unitsReset). -/

namespace Sys2Proof.Machine

/-- The rank of a user: a lower number is granted first (R160). -/
def ArbiterUser.rank : ArbiterUser → Nat
  | .host => 0
  | .droppedMirror => 1
  | .resultUnit => 2
  | .faultLogUnit => 3
  | .portEngine p => 4 + p.val
  | .deviceStatusUnit => 8
  | .intakeUnit => 9

/-- The user granted next among those that wait (R160). -/
def granted : List ArbiterUser → Option ArbiterUser
  | [] => none
  | u :: us =>
    match granted us with
    | none => some u
    | some v => if u.rank ≤ v.rank then some u else some v

/-- No access is waiting and none is in progress: after both resets, and between two steps (R159; log 3). -/
def Arbiter.idle : Arbiter := { serving := none, waiting := [] }

/-- A user presents a word access: on an idle RAM it is granted at once, else it waits (R160). -/
def Arbiter.present (a : Arbiter) (u : ArbiterUser) : Arbiter :=
  match a.serving with
  | none => { a with serving := some u }
  | some _ => { a with waiting := a.waiting ++ [u] }

/-- The access in progress ends, and the next in rank of those that wait is granted (R160). -/
def Arbiter.complete (a : Arbiter) : Arbiter :=
  match granted a.waiting with
  | none => { a with serving := none }
  | some u => { serving := some u, waiting := a.waiting.erase u }

/-- The word accesses to the exchange memory, by what makes them (Table 10-1, R159). -/
inductive Access
  /-- A host read or write of a word (R157). -/
  | host
  /-- The write of the dropped-write mirror after a rise of the counter (R158). -/
  | droppedMirror
  /-- A write of a progress half, a sample slot or the done map (R135 to R138). -/
  | result
  /-- A read of a card's taken counter before a sample write (R130). -/
  | takenRead
  /-- A write of a device status word (R86). -/
  | statusWord
  /-- A write of attach's clearing (R172). -/
  | attachClearing
  /-- A write of a fault record or of the log's mirrors, or the read of the log-taken counter (R145, R146). -/
  | faultLog
  /-- The read of a device entry by the resolution at the choice of a port's arbiter (R59, R72). -/
  | entryAtChoice (p : PortIx)
  /-- The read of a device entry by any other resolution, at a fence, or of a standby for a SUBSTITUTE card (R72). -/
  | entry
  /-- The read of an order word, of a request half, or of a device entry at validation (R27, R34, R35). -/
  | intake
  /-- The read of the posting header at a sweep, and the writes of the header fault field and the sweep count (R22, R25). -/
  | sweepHeader
  /-- Run Control's reads of the posting header at attach, and its write of the header fault field (R171). -/
  | attachHeader
  deriving DecidableEq, Repr

/-- The user that presents an access: the Result Unit writes for the other units and for attach, the Intake Unit reads the header for Run
Control, and a Port Engine reads for the resolution at its arbiter's choice (R159). -/
def Access.presenter : Access → ArbiterUser
  | .host => .host
  | .droppedMirror => .droppedMirror
  | .result | .takenRead | .statusWord | .attachClearing => .resultUnit
  | .faultLog => .faultLogUnit
  | .entryAtChoice p => .portEngine p
  | .entry => .deviceStatusUnit
  | .intake | .sweepHeader | .attachHeader => .intakeUnit

end Sys2Proof.Machine
end

