-- ==== Sys2Proof/Tests/Slice0.lean ====
section
/-! SUPPORT. The model's own tests: ill-formed commands that are refused, the check computations against the manual's examples, a few
steps, and for every statement with hypotheses a concrete state and operands that meet them. -/

namespace Sys2Proof.Tests

-- The tests are checked one after the other: many kernel evaluations at once need more memory than the check allows.
set_option Elab.async false

open Sys2Proof.Machine

/-! ### Ill-formed commands -/

theorem test_write_beyond_memory_ill_formed : (Instr.hostWrite 0x8000 0#32 0xF#4).wellFormed = false := by decide
theorem test_write_unaligned_ill_formed : (Instr.hostWrite 0x0042 0#32 0xF#4).wellFormed = false := by decide
theorem test_ignored_write_of_cause_ill_formed : (Instr.registerWriteIgnored 0x8010 1#32 0xF#4).wellFormed = false := by decide
theorem test_ignored_write_naming_run_ill_formed : (Instr.registerWriteIgnored 0x8004 1#32 0xF#4).wellFormed = false := by decide
theorem test_ignored_write_of_memory_ill_formed : (Instr.registerWriteIgnored 0x0040 0#32 0#4).wellFormed = false := by decide
theorem test_too_much_read_data_ill_formed : (Instr.twoWireDone 0 (List.replicate 19 0#8)).wellFormed = false := by decide
theorem test_fifth_leg_ill_formed : (Instr.addressNack 0 4 0 [] 0#2).wellFormed = false := by decide
theorem test_fourth_address_byte_ill_formed : (Instr.addressNack 0 0 3 [] 0#2).wellFormed = false := by decide
theorem test_byte_index_beyond_leg_ill_formed : (Instr.dataNack 0 0 45 [] 0#2).wellFormed = false := by decide
theorem test_check_of_fifth_leg_ill_formed : (Instr.checkMismatch 0 4 [] none 0#2).wellFormed = false := by decide
theorem test_arb_lost_turn_ill_formed : (Instr.arbLost 0 (.turn 4) [] 0#2).wellFormed = false := by decide
theorem test_bus_error_reads_ill_formed : (Instr.busError 0 .stop (List.replicate 20 0#8) true).wellFormed = false := by decide
theorem test_bus_error_ninth_bit_ill_formed : (Instr.busError 0 (.addressAck 0 3) [] true).wellFormed = false := by decide
theorem test_stretch_leg_ill_formed : (Instr.stretchTimeout 0 (.data 4 0) [] ⟨0#32, 0⟩ true).wellFormed = false := by decide
theorem test_ten_pulses_ill_formed : (Instr.recoveryDone 0 10).wellFormed = false := by decide
theorem test_stuck_with_lines_high_ill_formed : (Instr.portStuck 0 .dataLow true).wellFormed = false := by decide
theorem test_tenth_pulse_stuck_ill_formed : (Instr.portStuck 0 (.pulseWait 9 ⟨0#32, 0⟩) true).wellFormed = false := by decide
theorem test_four_wire_reads_ill_formed : (Instr.fourWireDone 0 (List.replicate 19 0#8)).wellFormed = false := by decide
theorem test_four_wire_leg_ill_formed : (Instr.fourWireCheckMismatch 0 4 [] 0#8 0#3).wellFormed = false := by decide
theorem test_sense_leg_ill_formed : (Instr.senseAssertion 0 (.data 4 0) [] 0#3).wellFormed = false := by decide

/-! ### Check computations (R14, R94, R115) -/

/-- The CRC-16 of the nine ASCII digits "123456789". -/
theorem test_crc16_of_digits : crc16 [0x31#8, 0x32#8, 0x33#8, 0x34#8, 0x35#8, 0x36#8, 0x37#8, 0x38#8, 0x39#8] = 0x29B1#16 := by
  decide +kernel

/-- The CRC-8 of the nine ASCII digits "123456789". -/
theorem test_crc8_of_digits : crc8 [0x31#8, 0x32#8, 0x33#8, 0x34#8, 0x35#8, 0x36#8, 0x37#8, 0x38#8, 0x39#8] = 0xF4#8 := by
  decide +kernel

theorem test_crc8_of_two_high_bytes : crc8 [0xFF#8, 0xFF#8] = 0x24#8 := by decide +kernel

/-! ### Small states -/

/-- Words written into an empty memory. -/
def words (xs : List (Nat × Nat)) : Memory := xs.foldl (fun m x => m.setWord x.1 (BitVec.ofNat 32 x.2)) []

/-- A posting header in range, device 5 on port 0 (address 0x48) and device 6 with CHECK beside it, device 9 with CHECK on port 2. -/
def baseWords : List (Nat × Nat) :=
  [(0x0000, 0x416), (0x0004, 1000), (0x0008, 300), (0x000C, 4), (0x0010, 1), (0x0014, 10),
   (0x0150, 0x00480001), (0x0154, 0x02000001), (0x0158, 0x00FF0032), (0x015C, 500),
   (0x0160, 0x00490005), (0x0164, 0x02000001), (0x0168, 0x00FF0032), (0x016C, 500),
   (0x0190, 0x00010205), (0x0194, 0x02AA0004), (0x0198, 0x00FF0032), (0x019C, 10)]

/-- Card 3 posted with generation 7: its kind, device and aux, and the check of its bytes 12 to 95. -/
def card (kind device aux check : Nat) : List (Nat × Nat) :=
  [(0x0780, 0x701), (0x0788, check), (0x078C, kind + 0x100 + device * 0x10000 + aux * 0x1000000), (0x0790, 0x100), (0x0798, 5000),
   (0x07A4, 0x201), (0x07B4, 0xBEEF)]

def header : Header := { interval := 1000, holdoff := 300, threshold := 4, level := .full, holdLimit := 10 }

/-- The part in RUNNING at the time count 1000, both two-wire buses free. -/
def running (xs : List (Nat × Nat)) : Machine.Part :=
  { Part.reset with
    time := { Part.reset.time with count := 1000#32 }
    rep := { Part.reset.rep with mem := words (baseWords ++ xs) }
    intake := { Intake.reset with header := some header }
    run := { Part.reset.run with state := .running }
    two := Vector.replicate 2 { TwoWire.reset with viewBusy := false } }

/-- A state with a part and an empty queue. -/
def at' (p : Machine.Part) : State := { part := p, pending := [] }

def noFlags : CardFlags :=
  { now := false, catchUp := false, keepNewest := false, stopOnError := false, setting := false, notify := false }

/-- A context of a ONCE card on device 5: a WRITE leg of 2 bytes and a READ leg of 1; its instance SLEEPING, due at 900. -/
def ctx : Context where
  generation := 7#8
  kind := .once
  priority := 1
  flags := noFlags
  device := 5
  legs := [{ op := .write, length := 2, offset := 0 }, { op := .read, length := 1, offset := 0 }]
  inline := [0xEF#8, 0xBE#8]
  bankFirst := 0
  bankCount := 0
  base := 900#32
  period := 0#32
  count := 0
  window := 0
  k := 0#32
  phase := .sleeping
  j := 0#32
  nextArrival := 900#32
  armed := true
  started := false
  late := false
  catchUpRun := false
  fromRetry := false
  retryTally := 0
  yieldTally := 0
  windowExpiry := none
  gapExpiry := none
  resolved := 5
  substituted := false
  run := 0#32
  missed := 0#32
  failed := 0#32
  debt := 0
  withdrawalPending := false
  pendingEnd := .none
  active := false
  made := 0#16
  lost := 0#16
  position := 0
  retriesTotal := 0#16
  yieldsTotal := 0#16
  deviceUsed := 0xFF#8
  last := none

/-- The same with its instance RUNNING. -/
def runningCtx : Context := { ctx with phase := .running, started := true, active := true, armed := false, j := 1#32 }

/-- An EVERY card of period 1000 with no bound. -/
def everyCtx : Context := { ctx with kind := .every, period := 1000#32 }

/-- The attempt of card 3's instance on device `d`, its start at 950. -/
def attempt (xs : List (Nat × Nat)) (d : DevIx) : Attempt :=
  { card := 3, device := d, substituted := false, entry := readEntry (words (baseWords ++ xs)) d, chosenAt := 940#32
    start := some 950#32, fallback := false, number := 1 }

/-- The part in RUNNING with card 3 holding a context. -/
def holding (c : Context) (xs : List (Nat × Nat)) : Machine.Part := (running xs).setCtx 3 (some c)

/-- Port 0 in phase DATA of an attempt of card 3 on device `d`. -/
def busyTwo (c : Context) (d : DevIx) : Machine.Part :=
  (holding c []).setTwo 0 { TwoWire.reset with state := .active .data (attempt [] d) }

/-- Port 2 in a phase of an attempt of card 3 on device 9. -/
def busyFour (c : Context) (ph : FourPhase) (start : Option Time) : Machine.Part :=
  (holding c []).setFour 0
    { FourWire.reset false with state := .active ph { attempt [] 9 with start := start } }

/-- Port 0 in a given state. -/
def portIn (t : TwoState) : Machine.Part :=
  (running []).setTwo 0 { TwoWire.reset with state := t, holdTimer := if t = .held then some 990#32 else none }

/-- A resolution as a state gives it. -/
theorem resolved_of {e : Except ResultCode Resolution} {r : Resolution}
    (h : (match e with | .ok x => decide (x = r) | .error _ => false) = true) : e = .ok r := by
  cases e with
  | ok x => simpa using h
  | error c => simp at h

theorem unresolved_of {e : Except ResultCode Valid} {c : ResultCode}
    (h : (match e with | .error x => decide (x = c) | .ok _ => false) = true) : e = .error c := by
  cases e with
  | ok x => simp at h
  | error x => simpa using h

theorem valid_of {e : Except ResultCode Valid} {v : Valid}
    (h : (match e with | .ok x => decide (x = v) | .error _ => false) = true) : e = .ok v := by
  cases e with
  | ok x => simpa using h
  | error c => simp at h

/-- Device 5, and device 9, resolved to themselves. -/
def resolution (d : DevIx) : Resolution :=
  { device := d, port := (readEntry (words baseWords) d).portIx, entry := readEntry (words baseWords) d, substituted := false }

/-- The part in HALTED, with the posting header of `running`, or with a layout code of 0. -/
def halted (good : Bool) : Machine.Part :=
  { Part.reset with rep := { Part.reset.rep with mem := words (if good then baseWords else []) } }

/-- The part not ready in the power-on clear, two accesses held. -/
def clearing : Machine.Part :=
  { Part.reset with
    host := { Part.reset.host with clearing := true, held := [.hostWrite 0x00C0 0x11223344#32 0xF#4, .run] } }

/-- The part in the clearing of an attach. -/
def attaching : Machine.Part :=
  { running [] with run := { (running []).run with state := .attaching, attach := some .clearing } }

/-- A sweep at the visit to card `n`. -/
def sweepAt (n : CardIx) (p : Machine.Part) : Machine.Part := { p with intake := { p.intake with pos := some n } }

/-- A context whose instance waits on port 0 with a window that ran out at 990. -/
def waitingCtx : Context := { ctx with phase := .waiting 0, armed := false, j := 1#32, window := 90, windowExpiry := some 990#32 }

def retryCtx : Context := { runningCtx with phase := .retryWait, gapExpiry := some 990#32 }

/-- The CATCH_UP flag set. -/
def catchUp (c : Context) : Context := { c with flags := { noFlags with catchUp := true } }

/-- An EVERY card whose instance is RUNNING and whose next instance falls due at 900. -/
def overtaken : Context := { everyCtx with phase := .running, started := true, j := 1#32 }

/-- Port 0 free, with an attempt whose start is still to be driven. -/
def pendingStart : Machine.Part :=
  (holding runningCtx []).setTwo 0
    { TwoWire.reset with viewBusy := false, state := .active .start { attempt [] 5 with start := none } }

/-- Both two-wire ports in the recoveries of their line checks. -/
def checking : Machine.Part :=
  let r : Recovery := { cause := .attach, since := 1#32, limit := 900, changes := [(500#32, 700)] }
  { attaching with
    run := { attaching.run with attach := some .lineCheck }
    two := Vector.replicate 2 { TwoWire.reset with state := .recovering r } }

/-- The part in STOPPED since 800, with card 3 holding a context. -/
def stopped (c : Context) : Machine.Part :=
  { holding c [] with run := { (holding c []).run with state := .stopped, stoppedAt := 800#32 } }

/-- Port 0 busy with card 3's attempt in QUIESCING. -/
def quiescing : Machine.Part :=
  { busyTwo runningCtx 5 with run := { (busyTwo runningCtx 5).run with state := .quiescing } }

/-- A record in the queue. -/
def logged (p : Machine.Part) : Machine.Part :=
  { p with rep := { p.rep with queue := [FaultRecord.bare .refLost 5#32] } }

/-! ### A few steps -/

/-- The users of the Exchange Arbiter are granted by their rank. -/
theorem test_arbiter_rank :
    granted [.intakeUnit, .portEngine 1, .portEngine 0, .resultUnit] = some .resultUnit ∧ granted [.intakeUnit, .host] = some .host ∧
      granted [] = none := by decide

/-- Each of its accesses has one user: the Result Unit writes for attach, a Port Engine reads at its arbiter's choice, and the Intake Unit
reads the header for Run Control. -/
theorem test_access_presenters :
    Access.attachClearing.presenter = .resultUnit ∧ (Access.entryAtChoice 2).presenter = .portEngine 2 ∧
      Access.attachHeader.presenter = .intakeUnit := by decide

/-- An access to an idle RAM is granted at once; of two that wait the Result Unit's comes before the Intake Unit's. -/
theorem test_arbiter_serves_in_rank :
    (((Arbiter.idle.present .host).present .intakeUnit).present .resultUnit).complete =
      { serving := some .resultUnit, waiting := [.intakeUnit] } := by decide

/-- Mode 0 samples at the rising edge and presents the next bit at the falling one; mode 3 presents at the falling edge from a high idle
level and samples at the rising one. -/
theorem test_clock_modes :
    (clockMode 0).bitEdges true (some false) =
        [{ high := true, presents := none, samples := true }, { high := false, presents := some false, samples := false }] ∧
      (clockMode 3).bitEdges true (some false) =
        [{ high := false, presents := some true, samples := false }, { high := true, presents := none, samples := true }] := by
  decide

/-- Bits cross most significant first, both ways. -/
theorem test_bits_cross_msb_first : byteBits 0x81#8 = [true, false, false, false, false, false, false, true] ∧
    bitsByte (byteBits 0xA7#8) = 0xA7#8 := by decide

/-- A card posted with a good check is taken in by the visit: context held, done bit clear. -/
theorem test_visit_accepts_card :
    (match step { at' (sweepAt 3 (running (card 1 5 0 20919))) with pending := [.visit true] } with
      | .next t => (t.part.ctx 3).isSome && !t.part.rep.done.getLsbD 3 && t.pending.isEmpty
      | _ => false) = true := by decide +kernel

/-- DONE on the two-wire port ends the ONCE card. -/
theorem test_done_ends_card :
    (match step { at' (busyTwo runningCtx 5) with pending := [.twoWireDone 0 [0x12#8]] } with
      | .next t => (t.part.ctx 3).isNone && t.part.rep.done.getLsbD 3 && t.part.rep.latch .done
      | _ => false) = true := by decide +kernel

/-! ### The hypotheses of the statements are met -/

theorem witness_StepTakesFrontCommand :
    ({ part := Part.reset, pending := [.timeCountTick] } : State).pending = .timeCountTick :: [] ∧ State.reset.pending = [] := by
  decide

theorem witness_WellFormedCommandsComplete :
    (Instr.hostWrite 0x7FFC 0#32 0xF#4).wellFormed = true ∧ ¬(0x8000 % 4 = 0 ∧ 0x8000 < 0x8000) ∧
      ignoredWrite 0x8010 1#32 0xF#4 = false ∧
      exec (.hostWrite 0x8000 0#32 0xF#4) State.reset = .fault (.noSuchWord 0x8000) := ⟨by decide, by decide, by decide, rfl⟩

theorem witness_PowerOnResetAndRelease :
    ({ Part.reset with host := { Part.reset.host with resetAsserted := true } }).host.resetAsserted = true := by decide

theorem witness_ClearEndZeroesMemoryThenServesHeld :
    clearing.host.clearing = true ∧ clearing.host.resetAsserted = false ∧
      ∀ i ∈ clearing.host.held, hostCommand i = true ∧ i.wellFormed = true := by decide

theorem witness_TickAdvancesTimeCount : Part.reset.host.resetAsserted = false := by decide

/-- A time base with a source, an edge gap, a run count and the boundary seen. -/
def timed (source : TimeSource) (gap count : Nat) (boundary : Bool) : Machine.Part :=
  { running [] with
    time := { count := 1000#32, source := source, runCount := count, edgeGap := gap, boundary := boundary } }

theorem witness_ReferenceSupervisionSwitchesSource :
    (timed .reference 0 256 false).time.source = .reference ∧
      ((timed .fallback 0 256 true).time.source = .fallback ∧ (timed .fallback 0 256 true).time.runCount = 256 ∧
        (timed .fallback 0 256 true).time.boundary = true) ∧
      ((timed .fallback 0 255 false).host.resetAsserted = false ∧ (timed .fallback 0 255 false).time.source = .fallback ∧
        (timed .fallback 0 255 false).time.runCount < 256) ∧
      ((timed .fallback 0 255 false).host.resetAsserted = false ∧ (timed .fallback 0 255 false).time.source = .fallback) := by
  decide +kernel

theorem witness_SoftResetResetsUnits :
    ((running []).notReady = false ∧ (running []).run.attach ≠ some .clearing) ∧
      (attaching.rep.mem.wf = true ∧ attaching.notReady = false ∧ attaching.run.attach = some .clearing) := by decide +kernel

theorem witness_HostWritePostsOrIsDropped :
    ((running []).rep.mem.wf = true ∧ (running []).notReady = false ∧ 0x7C % 4 = 0 ∧ Memory.ownerOf 0x00FC ≠ .report ∧
      Memory.ownerOf 0x0600 ≠ .report) ∧
      (Memory.ownerOf 0x7FFC = .report ∧ Memory.ownerOf 0x0040 = .report ∧ (running []).run.attach ≠ some .clearing) ∧
      (attaching.run.attach = some .clearing ∧ attaching.host.mirrorZeroed = false ∧ attaching.host.dropped ≠ 0xFFFF#16 ∧
        attaching.notReady = false ∧ attaching.rep.mem.wf = true) := by decide +kernel

theorem witness_AccessesHeldWhileNotReady :
    hostCommand .run = true ∧ (Instr.run).wellFormed = true ∧ clearing.notReady = true := by decide

theorem witness_IgnoredRegisterWritesChangeNothing :
    Part.reset.notReady = false ∧ 0x801C % 4 = 0 ∧ 0x8000 ≤ 0x801C ∧ Word.byte 7#32 0 ≠ 1#8 ∧ Word.byte 7#32 0 ≠ 2#8 ∧
      Word.byte 7#32 0 ≠ 3#8 := by decide

theorem witness_RegisterAccesses : Part.reset.notReady = false := by decide

theorem witness_RunByRunState :
    ((halted true).notReady = false ∧ (halted true).run.state = .halted ∧ (halted true).rep.mem.word 0x0000 = 0x00000416#32 ∧
      (readHeader (halted true).rep.mem).fault = .none) ∧
      ((halted false).run.state = .halted ∧ (halted false).rep.mem.word 0x0000 ≠ 0x00000416#32 ∧ HeaderFault.layout ≠ .none) ∧
      (running []).run.state = .running ∧ (stopped retryCtx).run.state = .stopped := by decide +kernel

/-- The contexts that a resume passes: one whose retry gap has run out, and one whose arrival is held. -/
theorem witness_RunByRunState_pass :
    ((stopped retryCtx).notReady = false ∧ (stopped retryCtx).ctx 3 = some retryCtx ∧
      (∀ m, m ≠ 3 → (stopped retryCtx).ctx m = none) ∧ retryCtx.phase = .retryWait ∧ retryCtx.gapExpiry = some 990#32 ∧
      retryCtx.armed = false) ∧ (stopped retryCtx).resolve 5 = .ok (resolution 5) ∧
      ((stopped everyCtx).ctx 3 = some everyCtx ∧ everyCtx.phase = .sleeping ∧ everyCtx.armed = true ∧
        Time.atOrAfter 1000#32 everyCtx.nextArrival = true ∧
        Time.atOrAfter 1000#32 (everyCtx.nextArrival + everyCtx.period) = false) ∧
      (holding retryCtx []).takesEvents = true :=
  ⟨by decide +kernel, resolved_of (by decide +kernel), by decide +kernel, by decide +kernel⟩

theorem witness_StopByRunState :
    ((running []).notReady = false ∧ (running []).run.state = .running ∧ (running []).attemptInProgress = false ∧
      (running []).intake.pos = none) ∧ (busyTwo runningCtx 5).attemptInProgress = true ∧ attaching.run.state = .attaching ∧
      Part.reset.run.state = .halted ∧ quiescing.run.state = .quiescing ∧ [0x12#8].length = runningCtx.readTotal ∧
      (quiescing.twoAt 1).busy = false ∧ (∀ q : FourIx, (quiescing.fourAt q).busy = false) ∧ quiescing.intake.pos = none := by
  decide +kernel

theorem witness_AttachClearsReportsAndRuns :
    attaching.rep.mem.wf = true ∧ attaching.run.state = .attaching ∧ attaching.run.attach = some .clearing ∧
      attaching.host.mirrorZeroed = false ∧ (∀ q : TwoIx, (attaching.twoAt q).inAttachCheck = false) ∧
      attaching.run.stopHeld = false ∧ attaching.attemptInProgress = false ∧ attaching.intake.pos = none ∧
      attaching.intake.header = some header ∧ (attaching.twoAt 0).state = .idle ∧ (attaching.fourAt 0).state = .idle := by
  decide +kernel

theorem witness_NudgeBeginsOrOwesSweep :
    (running []).notReady = false ∧ (running []).run.state = .running ∧ (running []).intake.pos = none ∧
      (sweepAt 95 (running [])).intake.pos ≠ none ∧ Part.reset.run.state ≠ .running := by decide +kernel

/-- The sweep timer has run out. -/
def sweepDue : Machine.Part := { running [] with intake := { (running []).intake with timer := some 1000#32 } }

theorem witness_SweepBeginsWithHeader :
    sweepDue.run.state = .running ∧ sweepDue.intake.pos = none ∧ sweepDue.intake.timer = some 1000#32 ∧
      Time.atOrAfter sweepDue.time.count 1000#32 = true ∧ sweepDue.intake.header = some header := by decide +kernel

theorem witness_OrderReadingAndVisitDecision :
    (Word.byte 0x0701#32 0 = 1#8 ∧ Word.byte 0x0701#32 1 ≠ 0#8) ∧ Word.byte 0x0002#32 0 = 2#8 ∧
      (¬(Word.byte 0x0001#32 0 = 1#8 ∧ Word.byte 0x0001#32 1 ≠ 0#8) ∧ Word.byte 0x0001#32 0 ≠ 2#8) ∧ (1#8 : Byte) ≠ 2#8 := by decide

/-- A card without an order whose progress word shows ENDED. -/
def ended (n : CardIx) : Machine.Part := sweepAt n (running [(Addr.progress n, 0x0C07)])

theorem witness_VisitWithoutActionGoesOn :
    ((sweepAt 94 (running [])).run.state = .running ∧ (sweepAt 94 (running [])).intake.pos = some 94 ∧
      (sweepAt 94 (running [])).intake.control = none) ∧
      decideVisit (orderOf (sweepAt 94 (running [])).rep.mem 94) ((sweepAt 94 (running [])).recorded 94) = .noAction ∧
      decideVisit (orderOf (sweepAt 95 (running [])).rep.mem 95) ((sweepAt 95 (running [])).recorded 95) = .noAction ∧
      (sweepAt 95 (running [])).intake.pending = false ∧
      ((sweepAt 9 quiescing).run.state = .quiescing ∧ (sweepAt 9 quiescing).attemptInProgress = true ∧
        decideVisit (orderOf (sweepAt 9 quiescing).rep.mem 9) ((sweepAt 9 quiescing).recorded 9) = .noAction) ∧
      decideVisit (orderOf (ended 5).rep.mem 5) ((ended 5).recorded 5) = .clearDone := by decide +kernel

theorem witness_ValidationStopsAtFirstFailure :
    (crc16 (readRequest (running (card 1 5 0 20919)).rep.mem 3).covered = (readRequest (running (card 1 5 0 20919)).rep.mem 3).check ∧
      (readRequest (running (card 1 5 0 20919)).rep.mem 3).kind = 1 ∧
      (readEntry (running []).rep.mem 5).usable = true ∧
      (readRequest (running (card 1 5 0 20919)).rep.mem 3).legsLegal = true ∧
      (readRequest (running (card 1 5 0 20919)).rep.mem 3).bankLegal = true ∧
      (readRequest (running (card 1 5 0 20919)).rep.mem 3).timingLegal = true) ∧
      crc16 (readRequest (running (card 1 5 0 0)).rep.mem 3).covered ≠ (readRequest (running (card 1 5 0 0)).rep.mem 3).check := by
  decide +kernel

/-- What every statement of a visit that takes in card 3 asks of the state. -/
def takesIn (p : Machine.Part) : Prop :=
  p.rep.mem.wf = true ∧ p.run.state = .running ∧ p.intake.pos = some 3 ∧ p.intake.control = none ∧ p.ctx 3 = none ∧
    decideVisit (orderOf p.rep.mem 3) (p.recorded 3) = .intake 7#8 false

/-- Card 3 posted and WAITING already. -/
def waits (check : Nat) : Machine.Part := sweepAt 3 (running (card 1 5 0 check ++ [(Addr.progress 3, 0xFF000107)]))

theorem witness_VisitRejectsInvalidCard :
    takesIn (sweepAt 3 (running (card 1 5 0 0))) ∧
      ((sweepAt 3 (running (card 1 5 0 0))).report (fun r => r.clearDone 3)).validate 3
        (readRequest (sweepAt 3 (running (card 1 5 0 0))).rep.mem 3) = .error .rejectCheck ∧
      decideVisit (orderOf (waits 0).rep.mem 3) ((waits 0).recorded 3) = .intake 7#8 true :=
  ⟨by unfold takesIn; decide +kernel, unresolved_of (by decide +kernel), by decide +kernel⟩

/-- The part at the time count 5000, when card 3's base is due. -/
def at5000 (xs : List (Nat × Nat)) : Machine.Part := { running xs with time := { Part.reset.time with count := 5000#32 } }

/-- All 32 contexts held, by cards 64 to 95. -/
def full (p : Machine.Part) : Machine.Part :=
  { p with ctxs := Vector.ofFn (fun n : CardIx => if 64 ≤ n.val then some { ctx with base := 2000#32, nextArrival := 2000#32 } else none) }

theorem witness_VisitTakesInTransferCard :
    (takesIn (sweepAt 3 (running (card 1 5 0 20919))) ∧
      ((sweepAt 3 (running (card 1 5 0 20919))).report (fun r => r.clearDone 3)).validate 3
        (readRequest (sweepAt 3 (running (card 1 5 0 20919))).rep.mem 3) = .ok (.transfer .once 5) ∧
      (sweepAt 3 (running (card 1 5 0 20919))).heldContexts < 32 ∧ Time.atOrAfter 1000#32 5000#32 = false) ∧
      (takesIn (full (sweepAt 3 (running (card 1 5 0 20919)))) ∧
        ((full (sweepAt 3 (running (card 1 5 0 20919)))).report (fun r => r.clearDone 3)).validate 3
          (readRequest (running (card 1 5 0 20919)).rep.mem 3) = .ok (.transfer .once 5) ∧
        32 ≤ (full (sweepAt 3 (running (card 1 5 0 20919)))).heldContexts) ∧
      ((waits 20919).ctx 3 = none ∧ decideVisit (orderOf (waits 20919).rep.mem 3) ((waits 20919).recorded 3) = .intake 7#8 true) ∧
      (Time.atOrAfter (at5000 []).time.count 5000#32 = true ∧ (at5000 []).resolve 5 = .ok (resolution 5)) :=
  ⟨⟨by unfold takesIn; decide +kernel, valid_of (by decide +kernel), by decide +kernel, by decide +kernel⟩,
    ⟨by unfold takesIn; decide +kernel, valid_of (by decide +kernel), by decide +kernel⟩, by decide +kernel,
    by decide +kernel, resolved_of (by decide +kernel)⟩

/-- Card 3 WAITING, its order gone. -/
def idleWaits : Machine.Part := sweepAt 3 (running [(Addr.progress 3, 0xFF000107)])

theorem witness_VisitWithdrawsCard :
    (sweepAt 3 (holding ctx [])).ctx 3 = some ctx ∧ ctx.active = false ∧
      decideVisit (orderOf (sweepAt 3 (holding ctx [])).rep.mem 3) ((sweepAt 3 (holding ctx [])).recorded 3) = .withdraw ∧
      (sweepAt 3 (holding runningCtx [])).ctx 3 = some runningCtx ∧ runningCtx.active = true ∧ runningCtx.phase = .running ∧
      decideVisit (orderOf (sweepAt 3 (holding runningCtx [])).rep.mem 3)
        ((sweepAt 3 (holding runningCtx [])).recorded 3) = .withdraw ∧
      ((idleWaits.ctx 3 = none ∧ idleWaits.recorded 3 = .waiting 7#8) ∧
        decideVisit (orderOf idleWaits.rep.mem 3) (.waiting 7#8) = .withdraw) := by decide +kernel

/-- Device 5 is SUSPECT. -/
def suspect (p : Machine.Part) : Machine.Part :=
  { p with dev := p.dev.put 5 { health := .suspect, faults := 2, guard := none } }

theorem witness_ControlCardsChangeDevices :
    (takesIn (sweepAt 3 (running (card 3 5 6 64105))) ∧
      ((sweepAt 3 (running (card 3 5 6 64105))).report (fun r => r.clearDone 3)).validate 3
        (readRequest (running (card 3 5 6 64105)).rep.mem 3) = .ok (.substitute 5 6) ∧
      ((sweepAt 3 (running (card 3 5 6 64105))).report (fun r => r.clearDone 3)).usableStandby 6 = true ∧ (6 : DevIx) ≠ 5 ∧
      (running []).dev.isFenced 5 = false ∧ (running []).dev.standbyOf 5 = none ∧ (running []).dev.subst.length < 8) ∧
      (running (card 3 5 6 64105)).usableStandby 7 = false ∧
      (takesIn (suspect (sweepAt 3 (running (card 4 5 0 1972)))) ∧
        ((suspect (sweepAt 3 (running (card 4 5 0 1972)))).report (fun r => r.clearDone 3)).validate 3
          (readRequest (running (card 4 5 0 1972)).rep.mem 3) = .ok (.restore 5) ∧
        (suspect (running [])).dev.restorable 5 = true ∧ (running []).dev.restorable 5 = false) :=
  ⟨⟨by unfold takesIn; decide +kernel, valid_of (by decide +kernel), by decide +kernel, by decide, by decide +kernel,
      by decide +kernel, by decide +kernel⟩, by decide +kernel,
    ⟨by unfold takesIn; decide +kernel, valid_of (by decide +kernel), by decide +kernel, by decide +kernel⟩⟩

theorem witness_PortClearCardClearsFence :
    (takesIn (sweepAt 3 ((running (card 5 0 0 52884)).setTwo 0 { TwoWire.reset with state := .fenced })) ∧
      ((sweepAt 3 (running (card 5 0 0 52884))).report (fun r => r.clearDone 3)).validate 3
        (readRequest (running (card 5 0 0 52884)).rep.mem 3) = .ok (.portClear 0) ∧ (0 : PortIx) = twoPort 0 ∧
      (running []).portFenced 0 = false) ∧
      (((sweepAt 3 (running (card 5 0 2 59009))).report (fun r => r.clearDone 3)).validate 3
        (readRequest (running (card 5 0 2 59009)).rep.mem 3) = .ok (.portClear 2) ∧ (2 : PortIx) = fourPort 0 ∧
        (((running []).setFour 0 { FourWire.reset true with state := .fenced }).fourAt 0).state = .fenced) :=
  ⟨⟨by unfold takesIn; decide +kernel, valid_of (by decide +kernel), by decide, by decide +kernel⟩,
    ⟨valid_of (by decide +kernel), by decide, by decide +kernel⟩⟩

theorem witness_ResolutionSteps :
    (((readEntry (running []).rep.mem 7).present && (readEntry (running []).rep.mem 7).legal) = false ∧
      (readEntry (running []).rep.mem 5).present = true ∧ (readEntry (running []).rep.mem 5).legal = true ∧
      ((running []).dev.get 5).health ≠ .fenced) ∧
      (let u := (((running []).dev.put 5 { health := .fenced, faults := 3, guard := none }).enter 5 6)
       (u.get 5).health = .fenced ∧ u.standbyOf 5 = some 6 ∧ (u.get 6).health ≠ .fenced) := by decide +kernel

theorem witness_DueArrivalJoinsReadyList :
    ((holding everyCtx []).run.state = .running ∧ (holding everyCtx []).ctx 3 = some everyCtx ∧ everyCtx.phase = .sleeping ∧
      everyCtx.armed = true ∧ everyCtx.pendingEnd = .none ∧ Time.atOrAfter 1000#32 everyCtx.nextArrival = true ∧
      Time.atOrAfter 1000#32 (everyCtx.nextArrival + everyCtx.period) = false) ∧
      (holding everyCtx []).resolve 5 = .ok (resolution 5) :=
  ⟨by decide +kernel, resolved_of (by decide +kernel)⟩

theorem witness_OvertakeOwedMissedOrLimit :
    ((holding overtaken []).ctx 3 = some overtaken ∧ overtaken.kind = .every ∧ overtaken.phase ≠ .sleeping ∧
      overtaken.armed = true ∧ overtaken.pendingEnd = .none ∧ Time.atOrAfter 1000#32 overtaken.nextArrival = true ∧
      Time.atOrAfter 1000#32 (overtaken.nextArrival + overtaken.period) = false) ∧
      ((catchUp overtaken).flags.catchUp = true ∧ (catchUp { overtaken with debt := 5 }).debt < 6 ∧
        6 ≤ (catchUp { overtaken with debt := 6 }).debt ∧ overtaken.flags.catchUp = false ∧
        (holding (catchUp { overtaken with debt := 6, phase := .retryWait }) []).rep.mem.wf = true) ∧
      ({ overtaken with phase := .waiting 0, started := false } : Context).started = false := by decide +kernel

theorem witness_WindowExpiryLateOrMissed :
    (holding waitingCtx []).run.state = .running ∧ (holding waitingCtx []).ctx 3 = some waitingCtx ∧
      waitingCtx.phase = .waiting 0 ∧ waitingCtx.started = false ∧ waitingCtx.windowExpiry = some 990#32 ∧
      Time.atOrAfter 1000#32 990#32 = true ∧ waitingCtx.kind = .once ∧ (holding waitingCtx []).rep.mem.wf = true ∧
      (catchUp waitingCtx).flags.catchUp = true ∧
      ({ waitingCtx with kind := .every } : Context).count = 0 := by decide +kernel

theorem witness_GapExpiryReturnsToReadyList :
    ((holding retryCtx []).run.state = .running ∧ (holding retryCtx []).ctx 3 = some retryCtx ∧ retryCtx.phase = .retryWait ∧
      retryCtx.gapExpiry = some 990#32 ∧ Time.atOrAfter 1000#32 990#32 = true) ∧
      (holding retryCtx []).resolve 5 = .ok (resolution 5) :=
  ⟨by decide +kernel, resolved_of (by decide +kernel)⟩

/-- Card 3's instance waits on port 0, or on port 2 for device 9. -/
def onList (d : DevIx) (port : PortIx) : Context := { ctx with phase := .waiting port, device := d, resolved := d, armed := false }

theorem witness_ArbiterChoiceBeginsAttempt :
    (((holding (onList 5 0) []).best ((holding (onList 5 0) []).candidates 0)).map Candidate.card = some 3 ∧
      ((holding (onList 5 0) []).twoAt 0).state = .idle ∧ ((holding (onList 5 0) []).twoAt 0).viewBusy = false ∧
      ((holding (onList 5 0) []).dev.get 5).guard = none ∧ (0 : PortIx) = twoPort 0) ∧
      (holding (onList 5 0) []).resolve 5 = .ok (resolution 5) ∧
      (((holding (onList 9 2) []).best ((holding (onList 9 2) []).candidates 2)).map Candidate.card = some 3 ∧
        ((holding (onList 9 2) []).fourAt 0).state = .idle ∧ ((holding (onList 9 2) []).fourAt 0).sense = false ∧
        (2 : PortIx) = fourPort 0) ∧ (holding (onList 9 2) []).resolve 9 = .ok (resolution 9) :=
  ⟨by decide +kernel, resolved_of (by decide +kernel), by decide +kernel, resolved_of (by decide +kernel)⟩

/-- Device 5 under guard until 990. -/
def guarded : Machine.Part :=
  { running [] with dev := (running []).dev.put 5 { health := .healthy, faults := 0, guard := some 990#32 } }

theorem witness_GuardExpiryClearsGuard :
    (guarded.dev.get 5).guard = some 990#32 ∧ Time.atOrAfter guarded.time.count 990#32 = true := by decide +kernel

theorem witness_AttemptsStartAfterTheirIntervals :
    ((pendingStart.twoAt 0).state = .active .start { attempt [] 5 with start := none } ∧ (pendingStart.twoAt 0).viewBusy = false ∧
      (Measure.mk 0#32 2000).since = (pendingStart.twoAt 0).lastStop ∧ (attempt [] 5).entry.speed = 1) ∧
      (((busyFour runningCtx (.select false) none).fourAt 0).state = .active (.select false) { attempt [] 9 with start := none } ∧
        (Measure.mk 0#32 1000).since = ((busyFour runningCtx (.select false) none).fourAt 0).lastDeselect ∧
        (attempt [] 9).chosenAt = 940#32 ∧ ((attempt [] 9).entry.speed + 1) * 20 ≤ 100) ∧
      (((busyFour runningCtx (.select true) (some 950#32)).fourAt 0).state = .active (.select true) (attempt [] 9) ∧
        (attempt [] 9).start = some 950#32 ∧ 1000 * (attempt [] 9).entry.reply ≤ 10000 ∧ (attempt [] 9).entry.mode = 0 ∧
        (attempt [] 9).entry.address < 4 ∧
        (outBits (attempt [] 9).entry (runningCtx.fourSlots (attempt [] 9).entry)).head? = some true) := by decide +kernel

theorem witness_BusMonitorFollowsConditions :
    (running []).host.resetAsserted = false ∧ ((portIn .idle).twoAt 0).state = .idle ∧ (portIn .idle).run.state = .running ∧
      (portIn .idle).intake.header = some header ∧ ((portIn .held).twoAt 0).state = .held ∧
      ((portIn .fenced).twoAt 0).state = .fenced ∧ ((portIn .held).twoAt 0).viewBusy = true ∧
      ((portIn .held).twoAt 0).measureFrom = 0#32 ∧ ((portIn .held).twoAt 0).pendingStart = none ∧
      ((Part.reset.twoAt 0).state = .idle ∧ (Part.reset.twoAt 0).holdTimer = none ∧ Part.reset.run.state = .halted) := by
  decide +kernel

/-- Port 0 carries out card 3's attempt on a device, for any context whose instance runs. -/
theorem witness_carriesOut (c : Context) (d : DevIx) : (busyTwo c d).carriesOut 0 (attempt [] d) 950#32 c :=
  ⟨⟨.data, rfl⟩, rfl, rfl⟩

/-- The positions of the statements about refused, wrong and lost bytes, in the attempts on devices 5 and 6. -/
theorem witness_positions :
    (atByte (attempt [] 5) runningCtx (.address 1 0) []
        { complete := (runningCtx.twoSlots (attempt [] 5).entry).take 3
          current := some { pos := .address 1 0, leg := 1, kind := .address 0x91#8 }, whole := false }
        { pos := .address 1 0, leg := 1, kind := .address 0x91#8 }) ∧
      (atByte (attempt [] 5) runningCtx (.data 0 1) []
        { complete := (runningCtx.twoSlots (attempt [] 5).entry).take 2
          current := some { pos := .data 0 1, leg := 0, kind := .out 0xBE#8 }, whole := false }
        { pos := .data 0 1, leg := 0, kind := .out 0xBE#8 }) ∧
      (atByte (attempt [] 6) runningCtx (.data 0 2) []
        { complete := (runningCtx.twoSlots (attempt [] 6).entry).take 3
          current := some { pos := .data 0 2, leg := 0, kind := .out (crc8 [0xEF#8, 0xBE#8]) }, whole := false }
        { pos := .data 0 2, leg := 0, kind := .out (crc8 [0xEF#8, 0xBE#8]) }) ∧
      atByte (attempt [] 6) runningCtx (.data 1 1) [0x12#8]
        { complete := (runningCtx.twoSlots (attempt [] 6).entry).take 6
          current := some { pos := .data 1 1, leg := 1, kind := .readCheck }, whole := false }
        { pos := .data 1 1, leg := 1, kind := .readCheck } := by
  unfold atByte; decide +kernel

theorem witness_retries : retries (attempt [] 5) runningCtx ∧ retries (attempt [] 6) runningCtx := by
  unfold retries; decide +kernel

theorem witness_TwoWireDoneEndsOnceCard :
    (busyTwo runningCtx 5).rep.mem.wf = true ∧ (busyTwo runningCtx 5).run.state = .running ∧ [0x12#8].length = runningCtx.readTotal ∧
      runningCtx.kind = .once ∧ runningCtx.pendingEnd = .none ∧ runningCtx.bankCount = 0 ∧
      ((busyTwo runningCtx 5).dev.get 5).health ≠ .fenced ∧
      (let c := { runningCtx with kind := .every, count := 1 }
       c.count ≠ 0 ∧ c.run + 1#32 + c.missed = BitVec.ofNat 32 c.count) ∧
      ({ runningCtx with kind := .every, debt := 2 } : Context).debt ≠ 0 := by decide +kernel

theorem witness_TwoWireDoneEndsOnceCard_debt :
    (busyTwo { runningCtx with kind := .every, debt := 2 } 5).resolve 5 = .ok (resolution 5) := resolved_of (by decide +kernel)

theorem witness_RefusedByteRetries :
    (busyTwo runningCtx 5).run.state = .running ∧ runningCtx.legs[1]? = some { op := .read, length := 1, offset := 0 } ∧
      0x13#8 ≠ crc8 ([0x12#8].drop 0) ∧ (attempt [] 5).entry.retryLimit ≤ ({ runningCtx with retryTally := 7 } : Context).retryTally ∧
      PendingEnd.withdrawn.asEnd = some (.withdrawn, .withdrawnByOrder) := by decide +kernel

theorem witness_DataNackFailsInstance :
    (busyTwo runningCtx 5).rep.mem.wf = true ∧ runningCtx.legs[0]? = some { op := .write, length := 2, offset := 0 } ∧ 1 < 2 ∧
      (attempt [] 5).entry.threshold = 0 ∧
      (let c := { runningCtx with kind := .every, flags := { noFlags with stopOnError := true } }
       c.count = 0 ∧ c.flags.stopOnError = true) := by decide +kernel

/-- The attempt on device 5 with a fault threshold of 1. -/
def fragile : Machine.Part :=
  (holding runningCtx []).setTwo 0
    { TwoWire.reset with
      state := .active .data { attempt [] 5 with entry := { (attempt [] 5).entry with threshold := 1 } } }

/-- A card's instance waits on port 0 for device 5. -/
def onPort0 : Context := { ctx with phase := .waiting 0, armed := false, j := 1#32 }

/-- The same with card 4's instance waiting for device 5, whose entry names a standby. -/
def fragileWaited (standby : Nat) : Machine.Part :=
  let p := fragile.setCtx 4 (some onPort0)
  { p with rep := { p.rep with mem := words (baseWords ++ [(0x0158, 0x00000032 + 0x10000 * standby)]) } }

theorem witness_FailureAtThresholdFencesDevice :
    1 ≤ min 15 ((fragile.dev.get 5).faults + 1) ∧ fragile.dev.standbyOf 5 = none ∧
      (readEntry fragile.rep.mem 5).standby = 0xFF ∧ fragile.rep.queue.length + 3 ≤ 16 ∧
      allCards.all (fun m => (fragile.ctx m).all (fun x => !x.isWaiting)) = true ∧ fragile.rep.mem.wf = true ∧
      (let p := fragileWaited 0x06
       (readEntry p.rep.mem 5).present = true ∧ (readEntry p.rep.mem 5).legal = true ∧ (readEntry p.rep.mem 5).standby = (6 : DevIx).val ∧
         (6 : DevIx) ≠ 5 ∧ p.usableStandby 6 = true ∧ p.dev.subst.length < 8 ∧
         p.portFenced (readEntry p.rep.mem 6).portIx = false ∧ p.ctx 4 = some onPort0 ∧ onPort0.isWaiting = true ∧
         onPort0.resolved = 5 ∧ onPort0.device = 5) ∧
      (onPort0.kind = .once ∧ onPort0.pendingEnd = .none ∧ onPort0.last = none ∧ (readEntry (fragileWaited 0xFF).rep.mem 5).standby = 0xFF) ∧
      8 ≤ (List.replicate 8 ((1 : DevIx), (2 : DevIx))).length := by decide +kernel

theorem witness_ArbitrationLossYields :
    (runningCtx.yieldTally + 1 < 16 ∧ (busyTwo runningCtx 5).intake.header = some header ∧ (0xBE#8 : Byte) ≠ 0#8) ∧
      (pendingStart.host.resetAsserted = false ∧ (pendingStart.twoAt 0).state = .active .start { attempt [] 5 with start := none } ∧
        pendingStart.ctx 3 = some runningCtx) ∧ pendingStart.resolve 5 = .ok (resolution 5) ∧
      16 ≤ ({ runningCtx with yieldTally := 15 } : Context).yieldTally + 1 :=
  ⟨by decide +kernel, by decide +kernel, resolved_of (by decide +kernel), by decide⟩

theorem witness_BusErrorRetries :
    (locateWith (runningCtx.twoSlots (attempt [] 5).entry) 2 .stop [0x12#8]).isSome = true ∧
      (locateWith (runningCtx.twoSlots (attempt [] 5).entry) 2 .start []).isSome = true ∧
      (locateWith (runningCtx.twoSlots (attempt [] 5).entry) 2 (.dataAck 1 0) [0x12#8]).map (fun b => b.lastByte [0x12#8]) =
        some 0x12#8 ∧
      (busyTwo runningCtx 5).intake.header = some header := by decide +kernel

theorem witness_StretchTimeoutRecovers :
    ((locateWith (runningCtx.twoSlots (attempt [] 5).entry) 2 (.turn 0) []).isSome = true ∧
      Time.atOrAfter 960#32 950#32 = true ∧ Time.atOrAfter 1000#32 960#32 = true ∧
      1000 * (attempt [] 5).entry.reply ≤ (Measure.mk 960#32 500000).ns) ∧
      (let r : Recovery :=
        { cause := .attempt (attempt [] 5) .start 0x90#8 0x90#8 0#8, since := 990#32, limit := 10000, changes := [] }
       ((portIn (.recovering r)).twoAt 0).state = .recovering r ∧ (portIn (.recovering r)).run.state = .running) := by
  decide +kernel

theorem witness_FailedRecoveryOrHoldExpiryFencesPort :
    ((1 : TwoIx) ≠ 0 ∧
      (checking.twoAt 0).state = .recovering { cause := .attach, since := 1#32, limit := 900, changes := [(500#32, 700)] } ∧
      (checking.twoAt 1).inAttachCheck = true ∧ checking.readyCards (twoPort 0) = [] ∧
      (Measure.mk 1#32 900000).since = 1#32 ∧
      (8 < 9 ∧ Time.atOrAfter 600#32 1#32 = true ∧ Time.atOrAfter checking.time.count 600#32 = true) ∧
      (let r : Recovery := { cause := .attach, since := 1#32, limit := 900, changes := [(500#32, 700)] }
       r.limitAt 499#32 = 900 ∧ r.limitAt 500#32 = 700)) ∧
      (((portIn .held).twoAt 0).state = .held ∧ ((portIn .held).twoAt 0).holdTimer = some 990#32 ∧
        Time.atOrAfter 1000#32 990#32 = true ∧ (portIn .held).readyCards (twoPort 0) = []) ∧
      (let p := (running []).setFour 0 { FourWire.reset true with state := .yielded, holdTimer := some 990#32 }
       (p.fourAt 0).state = .yielded ∧ (p.fourAt 0).holdTimer = some 990#32 ∧ p.readyCards (fourPort 0) = []) ∧
      (let p := (portIn .held).setCtx 4 (some onPort0)
       p.rep.mem.wf = true ∧ p.readyCards (twoPort 0) = [4] ∧ p.ctx 4 = some onPort0) := by decide +kernel

/-- An EVERY card with a bank of 4 slots, its instance RUNNING on device 9. -/
def banked : Context :=
  { everyCtx with
    device := 9, resolved := 9, phase := .running, started := true, active := true, j := 1#32, nextArrival := 1900#32
    bankFirst := 10, bankCount := 4 }

theorem witness_FourWireDoneWritesSample :
    let p := busyFour banked .data (some 950#32)
    p.rep.mem.wf = true ∧ (p.fourAt 0).state = .active .data (attempt [] 9) ∧ (p.fourAt 0).sense = false ∧ p.ctx 3 = some banked ∧
      [0x12#8].length = banked.readTotal ∧ banked.kind = .every ∧ banked.count = 0 ∧ banked.pendingEnd = .none ∧
      banked.debt = 0 ∧ banked.bankCount ≠ 0 ∧ (banked.made - takenCounter p.rep.mem 3).toNat < banked.bankCount ∧
      (p.dev.get 9).health ≠ .fenced ∧ Time.atOrAfter 1000#32 banked.nextArrival = false ∧ p.intake.header = some header ∧
      ((({ banked with made := 4#16 } : Context).made - takenCounter p.rep.mem 3).toNat = banked.bankCount ∧
        banked.bankCount < (({ banked with made := 5#16 } : Context).made - takenCounter p.rep.mem 3).toNat) := by decide +kernel

theorem witness_FourWireMismatchRetries :
    banked.legs[1]? = some { op := .read, length := 1, offset := 0 } ∧
      locateWith (banked.fourSlots (attempt [] 9).entry) 2 (.data 1 1) [0x12#8] =
        some
          { complete := (banked.fourSlots (attempt [] 9).entry).take 4
            current := some { pos := .data 1 1, leg := 1, kind := .readCheck }, whole := false } ∧
      0x13#8 ≠ crc8 ([0x12#8].drop 0) ∧ banked.pendingEnd = .none ∧ banked.retryTally < (attempt [] 9).entry.retryLimit ∧
      1 ≤ (attempt [] 9).entry.retryGap := by decide +kernel

theorem witness_SenseYieldsOrContends :
    (((running []).fourAt 0).sense = false ∧ ((running []).fourAt 0).state = .idle ∧ (running []).run.state = .running ∧
      (running []).intake.header = some header) ∧
      ((Part.reset.fourAt 0).holdTimer = none ∧ Part.reset.run.state = .halted) ∧
      ((busyFour banked .data (some 950#32)).fourAt 0).state = .active .data (attempt [] 9) ∧
      (((busyFour banked (.select true) (some 950#32)).fourAt 0).state = .active (.select true) (attempt [] 9) ∧
        banked.yieldTally + 1 < 16) ∧ (busyFour banked (.select true) (some 950#32)).resolve 9 = .ok (resolution 9) ∧
      ([0x12#8].length = banked.readTotal ∧ (locateWith (banked.fourSlots (attempt [] 9).entry) 2 (.data 1 0) []).isSome = true) :=
  ⟨by decide +kernel, by decide +kernel, by decide +kernel, by decide +kernel, resolved_of (by decide +kernel), by decide +kernel⟩

theorem witness_RequestKeptLostOrDiscarded :
    (RunState.running ≠ .halted ∧ (FaultRecord.bare .refLost 0#32).kind ≠ .addressNack) ∧
      16 ≤ (List.replicate 16 (FaultRecord.bare .refLost 0#32)).length := by decide

theorem witness_AppendWritesRecordOrLosesIt :
    (logged (running [])).rep.mem.wf = true ∧ (logged (running [])).rep.queue = FaultRecord.bare .refLost 5#32 :: [] ∧
      (logged (running [])).run.state = .running ∧
      ((logged (running [])).rep.appendCount.low - ((logged (running [])).rep.mem.word 0x0018).low).toNat < 32 ∧
      32 ≤ (Word.low 32#32 - ((logged (running [])).rep.mem.word 0x0018).low).toNat := by decide +kernel

theorem witness_HoldoffExpiryAndSamplesTold :
    (let p := { running [] with rep := { (running []).rep with holdoffTimer := some 1000#32, tally := 3 } }
     p.rep.holdoffTimer = some 1000#32 ∧ Time.atOrAfter p.time.count 1000#32 = true ∧ p.rep.latch .sample = false ∧
       4 ≤ p.rep.tally + 1 ∧ p.rep.tally < 255) ∧ Time.atOrAfter 1000#32 1001#32 = false := by decide +kernel

theorem witness_invariants :
    State.reset.part.rep.mem.wf = true ∧ exec .timeCountTick State.reset = .next (nextOf State.reset .timeCountTick) :=
  ⟨rfl, rfl⟩

end Sys2Proof.Tests
end

section
/-! Words, bytes and regions of the exchange memory, and what the report operations of intake and of a card's end write there. -/

namespace Sys2Proof.Machine

/-! ### Words and their bytes -/

theorem Word.byte_zero_ofBytes (b0 b1 b2 b3 : Byte) : (Word.ofBytes b0 b1 b2 b3).byte 0 = b0 := by
  apply BitVec.eq_of_getLsbD_eq
  intro i hi
  rw [Word.byte, Word.ofBytes, BitVec.getLsbD_extractLsb', BitVec.getLsbD_append]
  simp [hi]

theorem Word.byte_one_ofBytes (b0 b1 b2 b3 : Byte) : (Word.ofBytes b0 b1 b2 b3).byte 1 = b1 := by
  apply BitVec.eq_of_getLsbD_eq
  intro i hi
  rw [Word.byte, Word.ofBytes, BitVec.getLsbD_extractLsb', BitVec.getLsbD_append, BitVec.getLsbD_append]
  simp [hi]

theorem Memory.get_eq_byte_zero (m : Memory) (a : Nat) : m.get a = (m.word a).byte 0 := (Word.byte_zero_ofBytes _ _ _ _).symm

theorem Memory.get_succ_eq_byte_one (m : Memory) (a : Nat) : m.get (a + 1) = (m.word a).byte 1 :=
  (Word.byte_one_ofBytes _ _ _ _).symm

/-- A word depends on its four bytes alone. -/
theorem Memory.word_congr {m m' : Memory} {a : Nat} (h : ∀ b, a ≤ b → b < a + 4 → m'.get b = m.get b) :
    m'.word a = m.word a := by
  unfold Memory.word
  rw [h a (by omega) (by omega), h (a + 1) (by omega) (by omega), h (a + 2) (by omega) (by omega),
    h (a + 3) (by omega) (by omega)]

theorem Word.byte_of_zero (i : Nat) : Word.byte 0#32 i = 0#8 := by
  simp [Word.byte]

/-- A run of words written with zeros reads 0, and the rest stands. -/
theorem Memory.get_setWords_zeros (k : Nat) : ∀ {m : Memory} (a b : Nat), m.wf = true →
    (m.setWords a (List.replicate k 0#32)).get b = if a ≤ b ∧ b < a + 4 * k then 0#8 else m.get b := by
  induction k with
  | zero => intro m a b _; rw [if_neg (by omega)]; rfl
  | succ k ih =>
    intro m a b hm
    rw [List.replicate_succ, Memory.setWords, ih (a + 4) b (Memory.wf_setWord hm _ _), Memory.get_setWord hm]
    by_cases hrest : a + 4 ≤ b ∧ b < a + 4 + 4 * k
    · rw [if_pos hrest, if_pos (by omega)]
    · rw [if_neg hrest]
      by_cases hfirst : a ≤ b ∧ b < a + 4
      · rw [if_pos hfirst, if_pos (by omega), Word.byte_of_zero]
      · rw [if_neg hfirst, if_neg (by omega)]

/-! ### Words written one after the other -/

/-- Words written at the addresses given, in order. -/
def Memory.setList (m : Memory) (ws : List (Nat × Word)) : Memory := ws.foldl (fun m x => m.setWord x.1 x.2) m

theorem Memory.setList_cons (m : Memory) (x : Nat × Word) (ws : List (Nat × Word)) :
    m.setList (x :: ws) = (m.setWord x.1 x.2).setList ws := rfl

theorem Memory.wf_setList (ws : List (Nat × Word)) : ∀ {m : Memory}, m.wf = true → (m.setList ws).wf = true := by
  induction ws with
  | nil => exact fun h => h
  | cons x ws ih => exact fun h => ih (Memory.wf_setWord h _ _)

/-- A byte in none of the words written stands. -/
theorem Memory.get_setList_outside {ws : List (Nat × Word)} {b : Nat} (hb : ∀ x ∈ ws, b < x.1 ∨ x.1 + 4 ≤ b) :
    ∀ {m : Memory}, m.wf = true → (m.setList ws).get b = m.get b := by
  induction ws with
  | nil => exact fun _ => rfl
  | cons x ws ih =>
    intro m hm
    rw [Memory.setList_cons, ih (fun y hy => hb y (List.mem_cons_of_mem _ hy)) (Memory.wf_setWord hm _ _),
      Memory.get_setWord_outside hm _ (hb x List.mem_cons_self)]

/-- A word written reads back, where no other word written meets it. -/
theorem Memory.word_setList_of_mem {ws : List (Nat × Word)} {a : Nat} {w : Word}
    (hd : ws.Pairwise (fun x y => x.1 + 4 ≤ y.1 ∨ y.1 + 4 ≤ x.1)) (hw : (a, w) ∈ ws) :
    ∀ {m : Memory}, m.wf = true → (m.setList ws).word a = w := by
  induction ws with
  | nil => cases hw
  | cons x ws ih =>
    intro m hm
    obtain ⟨hx, hrest⟩ := List.pairwise_cons.mp hd
    rcases List.mem_cons.mp hw with rfl | hmem
    · rw [Memory.setList_cons,
        Memory.word_congr (fun b h1 h2 => Memory.get_setList_outside
          (fun y hy => by have := hx y hy; simp only at this h1 h2; omega) (Memory.wf_setWord hm _ _)),
        Memory.word_setWord hm]
    · exact ih hrest hmem (Memory.wf_setWord hm _ _)

/-! ### Where the words of a card and of a device lie -/

theorem Addr.progress_eq (n : CardIx) : Addr.progress n = 0x0660 + 128 * n.val := by
  simp only [Addr.progress, Addr.card]; omega

/-- A card's word of the done map is one of three. -/
theorem Addr.doneWord_le (n : CardIx) : Addr.doneMap + 4 * (n.val / 32) ≤ 0x0058 := by
  have hn : n.val < 96 := n.isLt
  simp only [Addr.doneMap]; omega

theorem Addr.status_lt_progress (d : DevIx) (n : CardIx) : Addr.status d + 4 ≤ Addr.progress n := by
  have hd : d.val < 64 := d.isLt
  simp only [Addr.status, Addr.progress, Addr.card]; omega

theorem Addr.doneWord_lt_status (n : CardIx) (d : DevIx) : Addr.doneMap + 4 * (n.val / 32) + 4 ≤ Addr.status d := by
  have := Addr.doneWord_le n
  simp only [Addr.status] at *; omega

/-- The done map lies below every progress half. -/
theorem Addr.doneWord_lt_progress (n : CardIx) : Addr.doneMap + 4 * (n.val / 32) + 4 ≤ Addr.progress n := by
  have := Addr.doneWord_le n
  rw [Addr.progress_eq]; omega

/-- A device's entry depends on the words of the device table alone. -/
theorem readEntry_congr {m m' : Memory} (h : ∀ a, 0x0100 ≤ a → a < 0x0500 → m'.get a = m.get a) (d : DevIx) :
    readEntry m' d = readEntry m d := by
  have hd : d.val < 64 := d.isLt
  have hbyte : ∀ k, k < 16 → m'.get (Addr.device d + k) = m.get (Addr.device d + k) := fun k hk =>
    h _ (by simp only [Addr.device]; omega) (by simp only [Addr.device]; omega)
  have hfirst : m'.get (Addr.device d) = m.get (Addr.device d) := hbyte 0 (by omega)
  simp [readEntry, Memory.half, Nat.add_assoc, hfirst, hbyte]

/-! ### The done map -/

/-- Clearing a done bit writes the card's word of the done map and the held copy alone (R20). -/
theorem Reports.clearDone_eq (r : Reports) (n : CardIx) :
    r.clearDone n =
      { r with
        mem := r.mem.setWord (Addr.doneMap + 4 * (n.val / 32))
          ((r.done &&& ~~~(1#96 <<< n.val)).extractLsb' (32 * (n.val / 32)) 32)
        done := r.done &&& ~~~(1#96 <<< n.val) } := rfl

theorem Reports.wf_clearDone {r : Reports} (h : r.mem.wf = true) (n : CardIx) : (r.clearDone n).mem.wf = true :=
  Memory.wf_setWord h _ _

theorem Reports.get_clearDone {r : Reports} (h : r.mem.wf = true) {n : CardIx} {a : Nat}
    (ha : ¬(Addr.doneMap + 4 * (n.val / 32) ≤ a ∧ a < Addr.doneMap + 4 * (n.val / 32) + 4)) :
    (r.clearDone n).mem.get a = r.mem.get a :=
  Memory.get_setWord_outside h _ (by omega)

/-- An end without a context writes the progress word, the done bit and CAUSE.DONE alone (R137). -/
theorem Reports.endWord_eq (r : Reports) (n : CardIx) (w : Word) :
    r.endWord n w =
      { r with
        mem := (r.mem.setWord (Addr.progress n) w).setWord (Addr.doneMap + 4 * (n.val / 32))
          ((r.done ||| (1#96 <<< n.val)).extractLsb' (32 * (n.val / 32)) 32)
        done := r.done ||| (1#96 <<< n.val)
        cause := r.cause ||| 0x01#8 } := rfl

theorem Reports.get_endWord {r : Reports} (h : r.mem.wf = true) {n : CardIx} (w : Word) {a : Nat}
    (ha : ¬(Addr.doneMap + 4 * (n.val / 32) ≤ a ∧ a < Addr.doneMap + 4 * (n.val / 32) + 4)) :
    (r.endWord n w).mem.get a = (r.writeProgress n w).mem.get a :=
  Memory.get_setWord_outside (Memory.wf_setWord h _ _) _ (by omega)

theorem Reports.word_progress_endWord {r : Reports} (h : r.mem.wf = true) (n : CardIx) (w : Word) :
    (r.endWord n w).mem.word (Addr.progress n) = w := by
  have hlt := Addr.doneWord_lt_progress n
  rw [Memory.word_congr (fun b h1 _ => Reports.get_endWord h w (a := b) (by omega))]
  exact Memory.word_setWord h _ _

theorem Reports.word_doneMap_endWord {r : Reports} (h : r.mem.wf = true) (n : CardIx) (w : Word) :
    (r.endWord n w).mem.word (Addr.doneMap + 4 * (n.val / 32)) =
      (r.done ||| (1#96 <<< n.val)).extractLsb' (32 * (n.val / 32)) 32 :=
  Memory.word_setWord (Memory.wf_setWord h _ _) _ _

/-- The bit of a card set in the done map. -/
theorem done_getLsbD_self (done : BitVec 96) (n : CardIx) : (done ||| (1#96 <<< n.val)).getLsbD n.val = true := by
  have hn : n.val < 96 := n.isLt
  simp [hn]

/-- A bit set after it was cleared. -/
theorem clear_then_set (x b : BitVec 96) : (x &&& ~~~b) ||| b = x ||| b := by
  apply BitVec.eq_of_getLsbD_eq
  intro i hi
  rw [BitVec.getLsbD_or, BitVec.getLsbD_and, BitVec.getLsbD_not, BitVec.getLsbD_or]
  cases b.getLsbD i <;> simp [hi]

/-- A card without a context whose progress word and done bit an end has written shows that end (R137). -/
theorem Part.cardEnded_of_endWord {s : Part} {n : CardIx} {r : Reports} (hm : r.mem.wf = true) (hctx : s.ctx n = none)
    {g deviceUsed : Byte} {state : ProgressState} {result : ResultCode} {debt : Nat}
    (hrep : s.rep = r.endWord n (progressWord g state result debt deviceUsed)) : s.cardEnded n g state result := by
  have hword := Reports.word_progress_endWord hm n (progressWord g state result debt deviceUsed)
  unfold Part.cardEnded
  rw [hrep, Memory.get_eq_byte_zero, Memory.get_succ_eq_byte_one, hword]
  refine ⟨hctx, Word.byte_zero_ofBytes _ _ _ _, Word.byte_one_ofBytes _ _ _ _, done_getLsbD_self _ n,
    Reports.word_doneMap_endWord hm n _, ?_⟩
  rw [Reports.endWord_eq]
  simp [Reports.latch, Latch.bit]

/-! ### The progress fields at intake -/

/-- The progress fields after the progress word at their new-generation values, unless the posting has them already (R15, R38). -/
def Reports.fresh (r : Reports) (n : CardIx) (retried : Bool) : Reports := if retried then r else r.newGeneration n

theorem Part.freshFields_eq (s : Part) (n : CardIx) (retried : Bool) :
    s.freshFields n retried = s.report (fun r => r.fresh n retried) := by
  cases retried <;> rfl

theorem Reports.fresh_true (r : Reports) (n : CardIx) : r.fresh n true = r := rfl

theorem Reports.fresh_false (r : Reports) (n : CardIx) :
    r.fresh n false = { r with mem := r.mem.setWords (Addr.progress n + 4) (List.replicate 7 0#32) } := rfl

/-- Fresh fields are a change of the memory alone. -/
theorem Reports.fresh_eq (r : Reports) (n : CardIx) (retried : Bool) :
    r.fresh n retried = { r with mem := (r.fresh n retried).mem } := by
  cases retried
  · simp only [Reports.fresh_false]
  · simp only [Reports.fresh_true]

theorem Reports.wf_fresh {r : Reports} (h : r.mem.wf = true) (n : CardIx) (retried : Bool) : (r.fresh n retried).mem.wf = true := by
  cases retried
  · simp only [Reports.fresh_false, Memory.wf_setWords _ _ h]
  · rw [Reports.fresh_true]; exact h

theorem Reports.get_fresh {r : Reports} (h : r.mem.wf = true) (n : CardIx) (retried : Bool) (a : Nat) :
    (r.fresh n retried).mem.get a =
      if Addr.progress n + 4 ≤ a ∧ a < Addr.progress n + 32 ∧ retried = false then 0#8 else r.mem.get a := by
  cases retried
  · have hz := Memory.get_setWords_zeros 7 (Addr.progress n + 4) a h
    rw [Reports.fresh_false, hz]
    exact if_congr (by simp) rfl rfl
  · rw [Reports.fresh_true, if_neg (by simp)]

/-- What the intake of a posting writes into a card's progress half: the progress word, and fresh fields behind it. -/
structure Memory.TakenIn (m m' : Memory) (n : CardIx) (retried : Bool) (w : Word) : Prop where
  word : m'.word (Addr.progress n) = w
  fields : ∀ a, Addr.progress n + 4 ≤ a → a < Addr.progress n + 32 → m'.get a = if retried then m.get a else 0#8
  outside : ∀ a, ¬(Addr.progress n ≤ a ∧ a < Addr.progress n + 32) → m'.get a = m.get a

theorem Reports.takenIn_fresh_writeProgress {r : Reports} (h : r.mem.wf = true) (n : CardIx) (retried : Bool) (w : Word) :
    Memory.TakenIn r.mem ((r.fresh n retried).writeProgress n w).mem n retried w where
  word := Memory.word_setWord (Reports.wf_fresh h n retried) _ _
  fields a h1 h2 := by
    have hout : ((r.fresh n retried).writeProgress n w).mem.get a = (r.fresh n retried).mem.get a :=
      Memory.get_setWord_outside (Reports.wf_fresh h n retried) _ (by omega)
    rw [hout, Reports.get_fresh h]
    cases retried <;> simp [h1, h2]
  outside a ha := by
    have hout : ((r.fresh n retried).writeProgress n w).mem.get a = (r.fresh n retried).mem.get a :=
      Memory.get_setWord_outside (Reports.wf_fresh h n retried) _ (by omega)
    rw [hout, Reports.get_fresh h, if_neg (by omega)]

/-- The same with the card's end: its done word is written too. -/
theorem Reports.takenIn_fresh_endWord {r : Reports} (h : r.mem.wf = true) (n : CardIx) (retried : Bool) (w : Word) :
    let m := ((r.fresh n retried).endWord n w).mem
    m.word (Addr.progress n) = w ∧
      (∀ a, Addr.progress n + 4 ≤ a → a < Addr.progress n + 32 → m.get a = if retried then r.mem.get a else 0#8) ∧
      ∀ a, ¬Addr.ofCardReport n a → m.get a = r.mem.get a := by
  intro m
  have hdone := Addr.doneWord_lt_progress n
  have hwf := Reports.wf_fresh h n retried
  have htaken := Reports.takenIn_fresh_writeProgress h n retried w
  refine ⟨Reports.word_progress_endWord hwf n w, fun a h1 h2 => ?_, fun a ha => ?_⟩
  · exact (Reports.get_endWord hwf w (by omega)).trans (htaken.fields a h1 h2)
  · exact (Reports.get_endWord hwf w (fun hd => ha (Or.inr hd))).trans (htaken.outside a (fun hp => ha (Or.inl hp)))

/-! ### Requests for records -/

/-- A record lost raises the lost count, with its mirror, and sets CAUSE.FAULT (R141, R147). -/
theorem Reports.loseRecord_eq (r : Reports) :
    r.loseRecord =
      { r with
        mem := r.mem.setWord 0x0048 (Word.ofHalves r.appendCount.low (r.logLost.saturatingAdd 1))
        logLost := r.logLost.saturatingAdd 1
        cause := r.cause ||| 0x04#8 } := rfl

/-- A request that the log level keeps is queued where there is room, and lost at a full queue (R141). -/
theorem Reports.request_kept (r : Reports) {state : RunState} {level : LogLevel} {f : FaultRecord}
    (hs : state.takesRequests = true) (hl : level.keeps f = true) :
    r.request state level f = if 16 ≤ r.queue.length then r.loseRecord else { r with queue := r.queue ++ [f] } := by
  by_cases hq : 16 ≤ r.queue.length
  · simp [Reports.request, hs, hl, hq, Config.queueEntries]
  · simp [Reports.request, hs, hl, hq, Config.queueEntries, Nat.lt_of_not_le hq]

/-- What such a request writes into the memory: the log mirror at a full queue, and nothing else. -/
theorem Reports.request_kept_mem {r : Reports} (hm : r.mem.wf = true) {state : RunState} {level : LogLevel} {f : FaultRecord}
    (hs : state.takesRequests = true) (hl : level.keeps f = true) :
    let m := (r.request state level f).mem
    m.wf = true ∧
      (16 ≤ r.queue.length → m.word 0x0048 = Word.ofHalves r.appendCount.low (r.logLost.saturatingAdd 1)) ∧
      ∀ a : Nat, ¬(16 ≤ r.queue.length ∧ 0x0048 ≤ a ∧ a < 0x004C) → m.get a = r.mem.get a := by
  intro m
  have hreq := r.request_kept hs hl
  by_cases hq : 16 ≤ r.queue.length
  · rw [if_pos hq, Reports.loseRecord_eq] at hreq
    have hmem : m = r.mem.setWord 0x0048 (Word.ofHalves r.appendCount.low (r.logLost.saturatingAdd 1)) := by
      simp only [m, hreq]
    rw [hmem]
    exact ⟨Memory.wf_setWord hm _ _, fun _ => Memory.word_setWord hm _ _,
      fun a ha => Memory.get_setWord_outside hm _ (by omega)⟩
  · rw [if_neg hq] at hreq
    have hmem : m = r.mem := by simp only [m, hreq]
    rw [hmem]
    exact ⟨hm, fun h => absurd h hq, fun _ _ => rfl⟩

/-- Counting one more, the saturation written out. -/
theorem Half.saturatingAdd_one (x : Half) : x.saturatingAdd 1 = if x = 0xFFFF#16 then 0xFFFF#16 else x + 1#16 := by
  unfold Half.saturatingAdd
  have hx : x.toNat < 65536 := x.isLt
  by_cases hfull : x = 0xFFFF#16
  · simp [hfull]
  · have hne : x.toNat ≠ 65535 := fun e => hfull (BitVec.eq_of_toNat_eq e)
    rw [if_neg hfull]
    split
    · apply BitVec.eq_of_toNat_eq
      simp [BitVec.toNat_add]; omega
    · rfl

end Sys2Proof.Machine
end

section
/-! The work left for a card: when it is done at once, and which event comes next (R47, R51, R68). -/

namespace Sys2Proof.Machine

/-! ### One piece of work, or none -/

theorem Part.workOnce_free {s : Part} {n : CardIx} (hc : s.ctx n = none) (m : PassMode) (w : Work) : s.workOnce m n w = none := by
  simp [Part.workOnce, hc]

theorem Part.workOnce_place {s : Part} {n : CardIx} {c : Context} (hc : s.ctx n = some c) (m : PassMode) (f : Fresh) :
    s.workOnce m n (.place f) = some (s.placeInstance n c none f) := by
  simp [Part.workOnce, hc]

theorem Part.workOnce_settle {s : Part} {n : CardIx} {c : Context} (hc : s.ctx n = some c) (m : PassMode) (f : Fresh) :
    s.workOnce m n (.settle f) = (s.nextEvent m c f).map (s.takeEvent m n c f) := by
  unfold Part.workOnce
  simp only [hc]
  cases s.nextEvent m c f <;> rfl

/-- Nothing is left to do. -/
theorem Part.finish_idle {s : Part} {m : PassMode} {n : CardIx} {w : Work} (h : s.workOnce m n w = none) :
    Part.finish m n (s, w) = s := by
  change workFor (4294967295 + 1) m n (s, w) = s
  unfold workFor
  rw [h]

/-- One piece of work is left, and nothing after it. -/
theorem Part.finish_one {s : Part} {m : PassMode} {n : CardIx} {w : Work} {x : Part × Work} (h : s.workOnce m n w = some x)
    (hx : x.1.workOnce m n x.2 = none) : Part.finish m n (s, w) = x.1 := by
  change workFor (4294967294 + 1 + 1) m n (s, w) = x.1
  unfold workFor
  simp only [h]
  unfold workFor
  simp only [hx]

/-- The work of a card that has ended. -/
theorem Part.finish_free {s : Part} {n : CardIx} (hc : s.ctx n = none) (m : PassMode) (w : Work) : Part.finish m n (s, w) = s :=
  Part.finish_idle (Part.workOnce_free hc m w)

/-! ### The next event -/

/-- No event is next where none of those allowed is due. -/
theorem Part.nextEvent_eq_none {s : Part} {m : PassMode} {c : Context} {f : Fresh}
    (h : ∀ e, f.allows e = true → s.eventDue c e = false) : s.nextEvent m c f = none := by
  have hnil : [TimedEvent.gap, .arrival, .window, .overtake].filter (fun e => f.allows e && s.eventDue c e) = [] := by
    rw [List.filter_eq_nil_iff]
    intro e _
    cases ha : f.allows e <;> simp [h e, ha]
  unfold Part.nextEvent
  rw [hnil]
  split <;> rfl

/-- Where no event may be taken, none is next. -/
theorem Part.nextEvent_none (s : Part) (m : PassMode) (c : Context) : s.nextEvent m c .none = none :=
  Part.nextEvent_eq_none (fun e he => by cases e <;> cases he)

/-- A context in SLEEPING has its due arrival alone to wait for. -/
theorem Context.armedAt_sleeping {c : Context} (hp : c.phase = .sleeping) {e : TimedEvent} (he : e ≠ .arrival) :
    c.armedAt e = none := by
  cases e with
  | arrival => exact absurd rfl he
  | gap => simp [Context.armedAt, hp]
  | window => simp [Context.armedAt, Context.waitsUnstarted, hp]
  | overtake => simp [Context.armedAt, hp]

/-- The next event of a context in SLEEPING whose arrival may be taken: the arrival, once it is due (R51, R52). -/
theorem Part.nextEvent_sleeping {s : Part} {m : PassMode} {c : Context} {f : Fresh} (hs : s.takesEvents = true)
    (hp : c.phase = .sleeping) (ha : c.armed = true) (hend : c.pendingEnd = .none) (hf : f.arrival = true) :
    s.nextEvent m c f = if s.dueBy c.nextArrival then some .arrival else none := by
  have harr : c.armedAt .arrival = some c.nextArrival := by simp [Context.armedAt, hp, ha, hend]
  have hother : ∀ e, e ≠ .arrival → s.eventDue c e = false := fun e he => by
    simp [Part.eventDue, Context.armedAt_sleeping hp he, Part.expired]
  by_cases hdue : s.dueBy c.nextArrival = true
  · have hd : s.eventDue c .arrival = true := by simp [Part.eventDue, harr, Part.expired, hdue]
    simp [Part.nextEvent, hs, hother, hd, Fresh.allows, hf, hdue, firstByKey]
  · rw [if_neg hdue]
    refine Part.nextEvent_eq_none (fun e _ => ?_)
    by_cases he : e = .arrival
    · subst he; simpa [Part.eventDue, harr, Part.expired] using hdue
    · exact hother e he

/-- A WAITING context has nothing due where its window has not run out and no further arrival is armed and due. -/
theorem Part.nextEvent_waiting_none {s : Part} {m : PassMode} {c : Context} {f : Fresh} {p : PortIx} (hp : c.phase = .waiting p)
    (hwin : ∀ t, c.windowExpiry = some t → s.dueBy t = false) (harr : c.armed = true → s.dueBy c.nextArrival = false) :
    s.nextEvent m c f = none := by
  refine Part.nextEvent_eq_none (fun e _ => ?_)
  cases e with
  | gap => simp [Part.eventDue, Context.armedAt, hp, Part.expired]
  | arrival => simp [Part.eventDue, Context.armedAt, hp, Part.expired]
  | window =>
    unfold Part.eventDue Context.armedAt
    simp only
    split
    · cases hw : c.windowExpiry with
      | none => rfl
      | some t => exact hwin t hw
    · rfl
  | overtake =>
    unfold Part.eventDue Context.armedAt
    simp only
    split
    · rename_i h; exact harr h.2.1
    · rfl

/-! ### Resolutions -/

/-- A resolution reads the device table, the fences of devices, the map and the fences of ports (R73). -/
theorem Part.resolve_congr {s t : Part} (hmem : ∀ a, 0x0100 ≤ a → a < 0x0500 → t.rep.mem.get a = s.rep.mem.get a)
    (hdev : ∀ d, t.dev.isFenced d = s.dev.isFenced d) (hsubst : t.dev.subst = s.dev.subst)
    (hport : ∀ p, t.portFenced p = s.portFenced p) (d : DevIx) : t.resolve d = s.resolve d := by
  have hentry := readEntry_congr hmem
  have hstandby : ∀ d, t.dev.standbyOf d = s.dev.standbyOf d := fun d => by unfold DeviceUnit.standbyOf; rw [hsubst]
  unfold Part.resolve Part.serving Part.usableStandby
  simp only [hentry, hdev, hstandby, hport]

/-- A context whose resolution succeeds joins the ready list of its port (R52, R61). -/
theorem Part.placeInstance_ok {s : Part} {c : Context} {r : Resolution} (h : s.resolve c.device = .ok r) (n : CardIx)
    (window : Option Time) (f : Fresh) :
    s.placeInstance n c window f = (s.setCtx n (some (c.placed r window)), .settle f) := by
  simp [Part.placeInstance, h]

end Sys2Proof.Machine
end

section
/-! The check computations as shift registers, and the decision of a visit (R2, R14, R94, Table 2-2). -/

namespace Sys2Proof.Machine

/-! ### The check registers bit by bit (R14, R94) -/

/-- A check register of any width shifts one bit on, its polynomial added where the bit that leaves is 1. -/
def checkBit {w : Nat} (poly r : BitVec w) : BitVec w := if r.msb then (r <<< 1) ^^^ poly else r <<< 1

theorem crc8Byte_eq_iterate (r b : Byte) : crc8Byte r b = (checkBit 0x07#8)^[8] (r ^^^ b) := rfl

theorem crc16Byte_eq_iterate (r : Half) (b : Byte) : crc16Byte r b = (checkBit 0x1021#16)^[8] (r ^^^ (b ++ 0#8 : BitVec 16)) := rfl

/-- A bit added to the top of the register in advance is the bit that the serial register takes in. -/
theorem checkBit_xor {w : Nat} (poly r x : BitVec w) :
    checkBit poly (r ^^^ x) = serialStep poly r x.msb ^^^ (x <<< 1) := by
  unfold checkBit serialStep
  rw [BitVec.msb_xor, BitVec.shiftLeft_xor_distrib]
  cases r.msb <;> cases x.msb <;> simp [BitVec.xor_assoc, BitVec.xor_comm (x <<< 1) poly]

/-- Bits added to the register in advance are taken in one by one from the top. -/
theorem iterate_checkBit_xor {w : Nat} (poly r x : BitVec w) (k : Nat) :
    (checkBit poly)^[k] (r ^^^ x) =
      ((List.range k).map (fun i => (x <<< i).msb)).foldl (serialStep poly) r ^^^ (x <<< k) := by
  induction k with
  | zero => simp
  | succ k ih =>
    rw [Function.iterate_succ_apply', ih, checkBit_xor, List.range_succ]
    simp [BitVec.shiftLeft_add]

/-- A byte at the top of a register of `8 + v` bits, its bits leaving most significant first. -/
theorem msb_shiftLeft_append_zero (b : Byte) (v : Nat) {i : Nat} (hi : i < 8) :
    ((b ++ 0#v : BitVec (8 + v)) <<< i).msb = b.getLsbD (7 - i) := by
  rw [BitVec.msb_eq_getLsbD_last, BitVec.getLsbD_shiftLeft, BitVec.getLsbD_append]
  have htop : 8 + v - 1 = v + 7 := by omega
  have hlow : ¬ (v + 7 - i < v) := by omega
  have hbit : v + 7 - i - v = 7 - i := by omega
  have hin : ¬ (v + 7 < i) ∧ v + 7 < 8 + v := by omega
  simp [htop, hlow, hbit, hin]

/-- Eight steps take in a whole byte that was added at the top. -/
theorem iterate_checkBit_byte {v : Nat} (poly r : BitVec (8 + v)) (b : Byte) :
    (checkBit poly)^[8] (r ^^^ (b ++ 0#v)) = (serialBits [b]).foldl (serialStep poly) r := by
  have hbits : (List.range 8).map (fun i => ((b ++ 0#v : BitVec (8 + v)) <<< i).msb) = serialBits [b] := by
    simp only [serialBits, List.flatMap_singleton]
    exact List.map_congr_left (fun i hi => msb_shiftLeft_append_zero b v (List.mem_range.mp hi))
  have hgone : (b ++ 0#v : BitVec (8 + v)) <<< 8 = 0#(8 + v) := by
    apply BitVec.eq_of_getLsbD_eq
    intro i hi
    rw [BitVec.getLsbD_shiftLeft, BitVec.getLsbD_append]
    by_cases h8 : i < 8
    · simp [h8]
    · have : i - 8 < v := by omega
      simp [this]
  rw [iterate_checkBit_xor, hbits, hgone, BitVec.xor_zero]

theorem crc8Byte_eq_serial (r b : Byte) : crc8Byte r b = (serialBits [b]).foldl (serialStep 0x07#8) r := by
  rw [crc8Byte_eq_iterate, ← iterate_checkBit_byte (v := 0)]
  simp

theorem crc16Byte_eq_serial (r : Half) (b : Byte) : crc16Byte r b = (serialBits [b]).foldl (serialStep 0x1021#16) r :=
  (crc16Byte_eq_iterate r b).trans (iterate_checkBit_byte (v := 8) 0x1021#16 r b)

/-- A fold that takes whole bytes is the serial fold over their bits, where it is so for each byte. -/
theorem foldl_eq_serial {w : Nat} {poly : BitVec w} {step : BitVec w → Byte → BitVec w}
    (hstep : ∀ r b, step r b = (serialBits [b]).foldl (serialStep poly) r) (bytes : List Byte) (r : BitVec w) :
    bytes.foldl step r = (serialBits bytes).foldl (serialStep poly) r := by
  induction bytes generalizing r with
  | nil => rfl
  | cons b rest ih =>
    have hcons : serialBits (b :: rest) = serialBits [b] ++ serialBits rest := by simp [serialBits]
    rw [List.foldl_cons, ih, hstep, hcons, List.foldl_append]

theorem crc8_eq_serial (bytes : List Byte) : crc8 bytes = (serialBits bytes).foldl (serialStep 0x07#8) 0x00#8 :=
  (Laws.crc8_eq_foldl bytes).trans (foldl_eq_serial crc8Byte_eq_serial bytes _)

theorem crc16_eq_serial (bytes : List Byte) : crc16 bytes = (serialBits bytes).foldl (serialStep 0x1021#16) 0xFFFF#16 :=
  (Laws.crc16_eq_foldl bytes).trans (foldl_eq_serial crc16Byte_eq_serial bytes _)

/-! ### Where validation reports the check -/

/-- No check after the first answers REJECT_CHECK. -/
theorem Part.checkTransfer_ne_rejectCheck (s : Part) (n : CardIx) (r : Request) (kind : TransferKind) (d : DevIx) :
    s.checkTransfer n r kind d ≠ .error .rejectCheck := by
  unfold Part.checkTransfer
  split_ifs <;> simp

theorem Part.checkKind_ne_rejectCheck (s : Part) (n : CardIx) (r : Request) : s.checkKind n r ≠ .error .rejectCheck := by
  unfold Part.checkKind
  split
  · split <;> simp
  · split
    · simp
    · split_ifs
      · simp
      · simp
      all_goals exact s.checkTransfer_ne_rejectCheck n r _ _

/-- Validation answers REJECT_CHECK exactly where the check differs (Table 2-3, check 1). -/
theorem Part.validate_rejectCheck_iff (s : Part) (n : CardIx) (r : Request) :
    s.validate n r = .error .rejectCheck ↔ crc16 r.covered ≠ r.check := by
  unfold Part.validate
  by_cases hc : crc16 r.covered ≠ r.check
  · simp [hc]
  · rw [if_neg hc]
    refine iff_of_false ?_ hc
    split
    · simp
    · exact s.checkKind_ne_rejectCheck n r

/-- Settles O53: eight steps of a check register take in the byte added at its top, bit by bit. -/
theorem checksAreShiftRegisters : Obligations.ChecksAreShiftRegisters := by
  refine ⟨fun bytes => ⟨crc8_eq_serial bytes, crc16_eq_serial bytes⟩, fun s n => ⟨?_, ?_⟩⟩
  · exact (s.part.validate_rejectCheck_iff n (readRequest s.part.rep.mem n)).mpr
  · intro heq hval
    exact (s.part.validate_rejectCheck_iff n (readRequest s.part.rep.mem n)).mp hval heq

/-! ### The decision of a visit (R2, Table 2-2) -/

theorem Order.ofWord_post {w : Word} (hk : w.byte 0 = 1#8) (hg : w.byte 1 ≠ 0#8) : Order.ofWord w = .post (w.byte 1) := by
  simp [Order.ofWord, hk, hg]

theorem Order.ofWord_withdraw {w : Word} (hk : w.byte 0 = 2#8) : Order.ofWord w = .withdraw (w.byte 1) := by
  simp [Order.ofWord, hk]

theorem Order.ofWord_idle {w : Word} (hp : ¬(w.byte 0 = 1#8 ∧ w.byte 1 ≠ 0#8)) (hw : w.byte 0 ≠ 2#8) : Order.ofWord w = .idle := by
  unfold Order.ofWord
  by_cases hk : w.byte 0 = 1#8
  · have hg : w.byte 1 = 0#8 := by simpa [hk] using hp
    simp [hk, hg]
  · simp [hk, hw]

theorem decideVisit_post_ended (g p : Byte) :
    decideVisit (.post g) (.ended p) = if g = p then .noAction else .intake g false := rfl

theorem decideVisit_post_waiting (g p : Byte) : decideVisit (.post g) (.waiting p) = .intake g (g == p) := rfl

theorem decideVisit_post_live (g p : Byte) (pending : Bool) :
    decideVisit (.post g) (.live p pending) = if pending || g == p then .noAction else .withdraw := rfl

theorem decideVisit_withdraw_waiting (g p : Byte) :
    decideVisit (.withdraw g) (.waiting p) = if g = p then .withdraw else .noAction := rfl

theorem decideVisit_withdraw_live (g p : Byte) (pending : Bool) :
    decideVisit (.withdraw g) (.live p pending) = if g = p ∧ !pending then .withdraw else .noAction := rfl

/-- Settles O20: R2 by the kind byte, and Table 2-2 by the order, for equal and for different generations. -/
theorem orderReadingAndVisitDecision : Obligations.OrderReadingAndVisitDecision := by
  refine ⟨fun w => ⟨fun h => Order.ofWord_post h.1 h.2, Order.ofWord_withdraw, Order.ofWord_idle⟩, fun g p pending => ?_⟩
  refine ⟨⟨rfl, fun hne => ?_⟩, fun hne => ?_, ?_, fun hne => ?_, rfl, ?_, ?_, ?_, ?_, ?_, rfl, fun hne => ⟨?_, ?_, rfl⟩,
    rfl, rfl, rfl, rfl, rfl, rfl⟩
  case refine_1 => rw [decideVisit_post_ended, if_neg hne]
  case refine_2 => rw [decideVisit_post_waiting, beq_false_of_ne hne]
  case refine_3 => rw [decideVisit_post_waiting, beq_self_eq_true]
  case refine_4 => rw [decideVisit_post_live, beq_false_of_ne hne]; rfl
  case refine_5 => rw [decideVisit_post_live, beq_self_eq_true, Bool.or_true, if_pos rfl]
  case refine_6 => rw [decideVisit_post_ended, if_pos rfl]
  case refine_7 => rw [decideVisit_withdraw_waiting, if_pos rfl]
  case refine_8 => rw [decideVisit_withdraw_live, if_pos ⟨rfl, rfl⟩]
  case refine_9 => rw [decideVisit_withdraw_live, if_neg (by simp)]
  case refine_10 => rw [decideVisit_withdraw_waiting, if_neg hne]
  case refine_11 => rw [decideVisit_withdraw_live, if_neg (fun h => hne h.1)]

end Sys2Proof.Machine
end

section
/-! The visit that takes in a posting: rejection, acceptance and WAITING (R28, R38 to R40, R51). -/

namespace Sys2Proof.Machine

/-! ### The visit around its card -/

/-- A visit to a card before the last, in RUNNING with no control card in execution, does what the card's visit does and the sweep
goes on (R22), where the card's visit leaves Run Control and the Intake Unit as they were. -/
theorem exec_visit_goesOn {s : State} {n : CardIx} {dataHigh : Bool} {t : Part} (h : n.val + 1 < 96)
    (hrun : s.part.run.state = .running) (hpos : s.part.intake.pos = some n) (hctl : s.part.intake.control = none)
    (hcard : s.part.visitCard n dataHigh = t) (htrun : t.run = s.part.run) (htin : t.intake = s.part.intake) :
    exec (.visit dataHigh) s =
      .next { s with part := { t with intake := { s.part.intake with pos := some ⟨n.val + 1, h⟩ } } } := by
  have hquiet : ¬ t.run.state = .quiescing := by rw [htrun, hrun]; decide
  have hend : t.endVisit n = { t with intake := { s.part.intake with pos := some ⟨n.val + 1, h⟩ } } := by
    unfold Part.endVisit Part.visitEnded
    rw [if_pos (by rw [htin, hctl]; rfl), if_neg hquiet, dif_pos h, htin]
  have hvisit : s.part.visit dataHigh = t.endVisit n := by
    unfold Part.visit
    rw [hpos]
    simp only [hctl, Option.isNone_none, if_true, hcard]
  change Host.Outcome.next { s with part := s.part.visit dataHigh } = _
  rw [hvisit, hend]

/-! ### Rejection (R38) -/

/-- The reports as a rejection leaves them. -/
def Reports.rejected (r : Reports) (level : LogLevel) (n : CardIx) (g : Byte) (retried : Bool) (code : ResultCode)
    (record : FaultRecord) : Reports :=
  (((r.clearDone n).request .running level record).fresh n retried).endWord n (bareWord g .rejected code)

/-- A card that fails validation is rejected: the reports change as above, its reservation ends, and nothing else changes. -/
theorem Part.intakeCard_rejected {s : Part} {n : CardIx} {code : ResultCode} (hrun : s.run.state = .running)
    (hval : (s.report (fun r => r.clearDone n)).validate n (readRequest s.rep.mem n) = .error code) (g : Byte)
    (retried dataHigh : Bool) :
    s.intakeCard n g retried dataHigh =
      { s with
        rep := s.rep.rejected s.logLevel n g retried code (rejectedRecord s.time.count n g code)
        waiting := s.waiting.set n.val none n.isLt } := by
  unfold Part.intakeCard
  simp only [hval]
  unfold Part.reject Reports.rejected
  simp only [Part.freshFields_eq, ← hrun]
  rfl

/-- What a rejection changes of the reports beside the memory. -/
theorem Reports.rejected_eq (r : Reports) (level : LogLevel) (n : CardIx) (g : Byte) (retried : Bool) (code : ResultCode)
    (time : Time) :
    let record := rejectedRecord time n g code
    let lost := if r.logLost = 0xFFFF#16 then 0xFFFF#16 else r.logLost + 1#16
    r.rejected level n g retried code record =
      { r with
        mem := (r.rejected level n g retried code record).mem
        done := r.done ||| (1#96 <<< n.val)
        queue := if 16 ≤ r.queue.length then r.queue else r.queue ++ [record]
        logLost := if 16 ≤ r.queue.length then lost else r.logLost
        cause := if 16 ≤ r.queue.length then r.cause ||| 0x05#8 else r.cause ||| 0x01#8 } := by
  intro record lost
  have hkept : level.keeps record = true := by cases level <;> rfl
  have hcause : r.cause ||| 0x04#8 ||| 0x01#8 = r.cause ||| 0x05#8 := by rw [BitVec.or_assoc]; rfl
  unfold Reports.rejected
  rw [Reports.endWord_eq, Reports.fresh_eq, Reports.request_kept _ rfl hkept, Reports.clearDone_eq]
  by_cases hfull : 16 ≤ r.queue.length
  · simp only [if_pos hfull, Reports.loseRecord_eq, clear_then_set, hcause, Half.saturatingAdd_one, lost]
  · simp only [if_neg hfull, clear_then_set]

/-- What a rejection writes into the memory: the card's progress half and done word, and at a full queue the log mirror. -/
theorem Reports.rejected_mem {r : Reports} (hm : r.mem.wf = true) (level : LogLevel) (n : CardIx) (g : Byte) (retried : Bool)
    (code : ResultCode) (time : Time) :
    let m := (r.rejected level n g retried code (rejectedRecord time n g code)).mem
    let lost := if r.logLost = 0xFFFF#16 then 0xFFFF#16 else r.logLost + 1#16
    m.word (Addr.progress n) = bareWord g .rejected code ∧
      (∀ a : Nat, Addr.progress n + 4 ≤ a → a < Addr.progress n + 32 → m.get a = if retried then r.mem.get a else 0#8) ∧
      (16 ≤ r.queue.length → m.word 0x0048 = Word.ofHalves r.appendCount.low lost) ∧
      ∀ a : Nat, ¬Addr.ofCardReport n a → ¬(16 ≤ r.queue.length ∧ 0x0048 ≤ a ∧ a < 0x004C) → m.get a = r.mem.get a := by
  intro m lost
  have hkept : level.keeps (rejectedRecord time n g code) = true := by cases level <;> rfl
  have hdone := Addr.doneWord_lt_progress n
  have hmap : 0x0050 ≤ Addr.doneMap + 4 * (n.val / 32) := by simp only [Addr.doneMap]; omega
  obtain ⟨hwf, hlog, hreq⟩ :=
    Reports.request_kept_mem (Reports.wf_clearDone hm n) (state := .running) rfl hkept
  obtain ⟨hword, hfields, hout⟩ := Reports.takenIn_fresh_endWord hwf n retried (bareWord g .rejected code)
  refine ⟨hword, fun a h1 h2 => ?_, fun hfull => ?_, fun a ha hmirror => ?_⟩
  · refine (hfields a h1 h2).trans ?_
    rw [hreq a (by omega), Reports.get_clearDone hm (by omega)]
  · refine (Memory.word_congr (fun b h1 h2 => hout b ?_)).trans ((hlog hfull).trans ?_)
    · unfold Addr.ofCardReport; omega
    · rw [Half.saturatingAdd_one]; rfl
  · have hdoneWord : ¬(Addr.doneMap + 4 * (n.val / 32) ≤ a ∧ a < Addr.doneMap + 4 * (n.val / 32) + 4) := fun h => ha (Or.inr h)
    exact (hout a ha).trans ((hreq a hmirror).trans (Reports.get_clearDone hm hdoneWord))

/-- Settles O23: the visit's card is rejected, and the reports and the memory change as said above. -/
theorem visitRejectsInvalidCard : Obligations.VisitRejectsInvalidCard := by
  intro s n g retried code dataHigh h hm hrun hpos hctl hctx hdec hval r full lost record
  obtain ⟨hword, hfields, hlog, hout⟩ := Reports.rejected_mem hm s.part.logLevel n g retried code s.part.time.count
  refine ⟨(r.rejected s.part.logLevel n g retried code record).mem, ?_⟩
  intro r'
  have hr' : r.rejected s.part.logLevel n g retried code record = r' :=
    Reports.rejected_eq r s.part.logLevel n g retried code s.part.time.count
  have hcard : s.part.visitCard n dataHigh = { s.part with rep := r', waiting := s.part.waiting.set n.val none n.isLt } := by
    unfold Part.visitCard
    rw [hdec, ← hr']
    exact Part.intakeCard_rejected hrun hval g retried dataHigh
  have hkept : s.part.logLevel.keeps record = true := by cases s.part.logLevel <;> rfl
  have hwf := (Reports.request_kept_mem (Reports.wf_clearDone hm n) (state := .running) rfl hkept).1
  have hended : ({ s.part with rep := r' } : Part).cardEnded n g .rejected code :=
    Part.cardEnded_of_endWord (s := { s.part with rep := r' }) (Reports.wf_fresh hwf n retried) hctx hr'.symm
  exact ⟨exec_visit_goesOn h hrun hpos hctl hcard rfl rfl, hended, hword, hfields, hlog, hout⟩

/-! ### Transfer cards (R39, R40, R51) -/

/-- The reports as the intake of a valid transfer card leaves them: the done bit clear, the fields fresh, the progress word written. -/
def Reports.takenIn (r : Reports) (n : CardIx) (retried : Bool) (w : Word) : Reports :=
  ((r.clearDone n).fresh n retried).writeProgress n w

/-- Beside the memory the done bit alone changes. -/
theorem Reports.takenIn_eq (r : Reports) (n : CardIx) (retried : Bool) (w : Word) :
    r.takenIn n retried w = { r with mem := (r.takenIn n retried w).mem, done := r.done &&& ~~~(1#96 <<< n.val) } := by
  unfold Reports.takenIn
  rw [Reports.fresh_eq, Reports.clearDone_eq]
  rfl

/-- What the intake writes into the memory: the card's progress half and done word. -/
theorem Reports.takenIn_mem {r : Reports} (hm : r.mem.wf = true) (n : CardIx) (retried : Bool) (w : Word) :
    let m := (r.takenIn n retried w).mem
    m.word (Addr.progress n) = w ∧
      (∀ a, Addr.progress n + 4 ≤ a → a < Addr.progress n + 32 → m.get a = if retried then r.mem.get a else 0#8) ∧
      ∀ a, ¬Addr.ofCardReport n a → m.get a = r.mem.get a := by
  have hdone := Addr.doneWord_lt_progress n
  have htaken := Reports.takenIn_fresh_writeProgress (Reports.wf_clearDone hm n) n retried w
  refine ⟨htaken.word, fun a h1 h2 => ?_, fun a ha => ?_⟩
  · rw [← Reports.get_clearDone hm (n := n) (a := a) (by omega)]
    exact htaken.fields a h1 h2
  · exact (htaken.outside a (fun h => ha (Or.inl h))).trans (Reports.get_clearDone hm (fun h => ha (Or.inr h)))

/-- The intake of a transfer card that passes validation. -/
theorem Part.intakeCard_transfer {s : Part} {n : CardIx} {kind : TransferKind} {d : DevIx}
    (hval : (s.report (fun r => r.clearDone n)).validate n (readRequest s.rep.mem n) = .ok (.transfer kind d)) (g : Byte)
    (retried dataHigh : Bool) :
    s.intakeCard n g retried dataHigh =
      (s.report (fun r => r.clearDone n)).takeTransfer n g retried kind d (readRequest s.rep.mem n) := by
  unfold Part.intakeCard
  simp only [hval]

/-- The part with card `n` ACCEPTED, before the arrivals that are due already are taken (R39). -/
def Part.accepted (s : Part) (n : CardIx) (retried : Bool) (c : Context) : Part :=
  { s with
    rep := s.rep.takenIn n retried c.liveWord
    ctxs := s.ctxs.set n.val (some c) n.isLt
    waiting := s.waiting.set n.val none n.isLt }

/-- With a context free the card is accepted, and its due arrivals are taken (R39, R51). -/
theorem Part.takeTransfer_accept {s : Part} (hfree : s.heldContexts < 32) (n : CardIx) (g : Byte) (retried : Bool)
    (kind : TransferKind) (d : DevIx) (q : Request) :
    (s.report (fun r => r.clearDone n)).takeTransfer n g retried kind d q =
      Part.finish { fromAcceptance := true, resume := false } n
        (s.accepted n retried (s.newContext g kind d q), .settle { Fresh.none with arrival := true }) := by
  have hheld : (s.report (fun r => r.clearDone n)).heldContexts < Config.contexts := hfree
  unfold Part.takeTransfer Part.accept
  rw [if_pos hheld]
  simp only [Part.freshFields_eq]
  rfl

/-- With all contexts held the card waits, or goes on waiting (R40). -/
theorem Part.takeTransfer_wait {s : Part} (hheld : 32 ≤ s.heldContexts) (n : CardIx) (g : Byte) (retried : Bool)
    (kind : TransferKind) (d : DevIx) (q : Request) :
    (s.report (fun r => r.clearDone n)).takeTransfer n g retried kind d q =
      { s with
        rep :=
          if retried then s.rep.clearDone n else (s.rep.takenIn n false (bareWord g .waiting .none)).setLatch .backlog
        waiting := s.waiting.set n.val (some q.bank) n.isLt } := by
  have hfull : ¬ (s.report (fun r => r.clearDone n)).heldContexts < Config.contexts := Nat.not_lt.mpr hheld
  unfold Part.takeTransfer Part.enterWaiting
  rw [if_neg hfull]
  cases retried
  · simp only [Part.freshFields_eq, Reports.takenIn, Part.tell, Part.report, Part.setWaiting, Bool.false_eq_true, if_false]
  · rfl

theorem Part.accepted_ctx (s : Part) (n : CardIx) (retried : Bool) (c : Context) : (s.accepted n retried c).ctx n = some c :=
  Part.setCtx_ctx_self s n (some c)

/-- An acceptance changes no entry of the device table. -/
theorem Part.accepted_resolve {s : Part} (hm : s.rep.mem.wf = true) (n : CardIx) (retried : Bool) (c : Context) (d : DevIx) :
    (s.accepted n retried c).resolve d = s.resolve d := by
  refine Part.resolve_congr (s := s) (t := s.accepted n retried c) (fun a h1 h2 => ?_) (fun _ => rfl) rfl (fun _ => rfl) d
  refine (Reports.takenIn_mem hm n retried c.liveWord).2.2 a ?_
  have hlow := Addr.doneWord_le n
  have hhigh := Addr.progress_eq n
  unfold Addr.ofCardReport; omega

/-- A card whose base is still to come is left SLEEPING. -/
theorem Part.finish_accepted_early {s : Part} {n : CardIx} {retried : Bool} {c : Context} (hs : s.takesEvents = true)
    (hp : c.phase = .sleeping) (ha : c.armed = true) (hend : c.pendingEnd = .none) (hdue : s.dueBy c.nextArrival = false)
    (m : PassMode) :
    Part.finish m n (s.accepted n retried c, .settle { Fresh.none with arrival := true }) = s.accepted n retried c := by
  refine Part.finish_idle ?_
  have hnext : (s.accepted n retried c).nextEvent m c { Fresh.none with arrival := true } = none := by
    have hlater : (s.accepted n retried c).dueBy c.nextArrival = false := hdue
    rw [Part.nextEvent_sleeping (s := s.accepted n retried c) hs hp ha hend rfl, hlater]
    rfl
  rw [Part.workOnce_settle (s.accepted_ctx n retried c), hnext]
  rfl

/-- A card whose base is due has its first arrival taken at acceptance, its window measured from then (R51), where neither that window
nor a further arrival is due too. -/
theorem Part.finish_accepted_due {s : Part} {n : CardIx} {retried : Bool} {c : Context} {r : Resolution} {window : Option Time}
    (hm : s.rep.mem.wf = true) (hs : s.takesEvents = true) (hp : c.phase = .sleeping) (ha : c.armed = true)
    (hend : c.pendingEnd = .none) (hdue : s.dueBy c.nextArrival = true) (hr : s.resolve c.device = .ok r)
    (hwindow : window = if c.window = 0 then none else some (s.now + BitVec.ofNat 32 c.window))
    (hwin : ∀ t, window = some t → s.dueBy t = false)
    (hagain : c.advanceArrival.armed = true → s.dueBy c.advanceArrival.nextArrival = false) :
    Part.finish { fromAcceptance := true, resume := false } n
        (s.accepted n retried c, .settle { Fresh.none with arrival := true }) =
      (s.accepted n retried c).setCtx n (some (c.advanceArrival.placed r window)) := by
  have hctx := s.accepted_ctx n retried c
  have hres : (s.accepted n retried c).resolve c.advanceArrival.device = .ok r := (Part.accepted_resolve hm n retried c _).trans hr
  have hnext : (s.accepted n retried c).nextEvent { fromAcceptance := true, resume := false } c
      { Fresh.none with arrival := true } = some .arrival := by
    have hnow : (s.accepted n retried c).dueBy c.nextArrival = true := hdue
    rw [Part.nextEvent_sleeping (s := s.accepted n retried c) hs hp ha hend rfl, hnow]
    rfl
  have htake : (s.accepted n retried c).takeArrival { fromAcceptance := true, resume := false } n c
      { Fresh.none with arrival := true } =
      ((s.accepted n retried c).setCtx n (some (c.advanceArrival.placed r window)),
        .settle { Fresh.none with arrival := true, window := true }) := by
    rw [hwindow]
    exact Part.placeInstance_ok hres n _ _
  refine (Part.finish_one (x := ((s.accepted n retried c).setCtx n (some (c.advanceArrival.placed r window)),
    .settle { Fresh.none with arrival := true, window := true })) ?_ ?_)
  · rw [Part.workOnce_settle hctx, hnext]
    exact congrArg some htake
  · rw [Part.workOnce_settle (Part.setCtx_ctx_self _ _ _)]
    rw [Part.nextEvent_waiting_none (c := c.advanceArrival.placed r window)
      (s := (s.accepted n retried c).setCtx n (some (c.advanceArrival.placed r window))) (p := r.port) rfl hwin hagain]
    rfl

/-- The legs of a new posting's context are those of the request within its leg count. -/
theorem Part.newContext_legs (q : Request) :
    q.usedLegs.map LegField.toLeg =
      (q.legs.take q.legCount).map (fun l =>
        { op := if l.op = 1 then .write else .read, length := l.length, offset := l.offset }) := by
  refine List.map_congr_left (fun l _ => ?_)
  simp [LegField.toLeg, LegField.isWrite]

/-- Settles O24: the three answers to a valid transfer card, by the contexts held and the base. -/
theorem visitTakesInTransferCard : Obligations.VisitTakesInTransferCard := by
  intro s n g retried kind d dataHigh h hm hrun hpos hctl hctx hdec q now base period count hval c again window done written taken
  have hnew : s.part.newContext g kind d q = c := by
    unfold Part.newContext
    rw [Part.newContext_legs]
    rfl
  have htakes : s.part.takesEvents = true := by simp [Part.takesEvents, hrun]
  have hvisit : s.part.visitCard n dataHigh = (s.part.report (fun r => r.clearDone n)).takeTransfer n g retried kind d q := by
    unfold Part.visitCard
    rw [hdec]
    exact Part.intakeCard_transfer hval g retried dataHigh
  have hwritten := fun w => Reports.takenIn_mem hm n retried w
  refine ⟨fun hfree hearly => ?_, fun r hfree hdue hr hwin hagain => ?_, fun hheld => ?_⟩
  · have hend := Part.finish_accepted_early (n := n) (retried := retried) (c := c) htakes rfl rfl rfl hearly
      { fromAcceptance := true, resume := false }
    rw [Part.takeTransfer_accept hfree, hnew, hend] at hvisit
    refine ⟨(s.part.rep.takenIn n retried c.liveWord).mem, ?_, hwritten _⟩
    rw [exec_visit_goesOn h hrun hpos hctl hvisit rfl rfl]
    unfold Part.accepted
    rw [Reports.takenIn_eq]
  · have hend := Part.finish_accepted_due (n := n) (retried := retried) (c := c) hm htakes rfl rfl rfl hdue hr
      (window := window) rfl hwin hagain
    rw [Part.takeTransfer_accept hfree, hnew, hend] at hvisit
    refine ⟨(s.part.rep.takenIn n retried c.liveWord).mem, ?_, hwritten _⟩
    rw [exec_visit_goesOn h hrun hpos hctl hvisit rfl rfl]
    unfold Part.accepted Part.setCtx
    rw [Reports.takenIn_eq, Vector.set_set]
    rfl
  · rw [Part.takeTransfer_wait hheld] at hvisit
    rw [exec_visit_goesOn h hrun hpos hctl hvisit rfl rfl]
    cases retried
    · refine ⟨(s.part.rep.takenIn n false (bareWord g .waiting .none)).mem, ?_, fun _ => hwritten _, fun hn => Bool.noConfusion hn⟩
      simp only [Bool.false_eq_true, if_false]
      rw [Reports.takenIn_eq]
      rfl
    · refine ⟨(s.part.rep.clearDone n).mem, rfl, fun hn => Bool.noConfusion hn, fun _ a ha => Reports.get_clearDone hm ha⟩

end Sys2Proof.Machine
end

section
/-! DONE on a two-wire port (R53, R57, R60, R62, R76, R81, R95, R135). -/

namespace Sys2Proof.Machine

/-! ### The bytes received (R93, R95) -/

theorem readCount_append (xs ys : List Slot) : readCount (xs ++ ys) = readCount xs + readCount ys := List.countP_append

/-- No byte of a run is received where none of its kinds is a read. -/
theorem readCount_eq_zero {ss : List Slot} (h : ∀ x ∈ ss, x.isRead = false) : readCount ss = 0 :=
  List.countP_eq_zero.mpr (fun x hx => by simp [h x hx])

/-- A leg receives its length of data bytes, if it is a READ leg; its check byte is none of them. -/
theorem readCount_dataSlots (c : Context) (check : Bool) (leg : Leg) (l : Nat) :
    readCount (c.dataSlots check leg l) = if leg.op == .read then leg.length else 0 := by
  unfold Context.dataSlots
  cases hop : leg.op with
  | write =>
    refine readCount_eq_zero (fun x hx => ?_)
    obtain ⟨b, _, rfl⟩ := List.mem_map.mp hx
    rfl
  | read =>
    have hcheck : readCount (if check then [{ pos := .data l leg.length, leg := l, kind := .readCheck }] else []) = 0 := by
      cases check <;> rfl
    have hdata : ∀ f : Nat → Bool, readCount ((List.range leg.length).map (fun i =>
        { pos := .data l i, leg := l, kind := .read (f i) })) = leg.length := fun f => by
      exact List.countP_map.trans ((List.countP_eq_length.mpr (fun _ _ => rfl)).trans List.length_range)
    rw [readCount_append, hcheck, hdata]
    rfl

theorem readCount_twoLegSlots (c : Context) (e : DeviceEntry) (leg : Leg) (l : Nat) :
    readCount (c.twoLegSlots e leg l) = if leg.op == .read then leg.length else 0 := by
  have haddress : readCount ((addressBytes e leg.op).zipIdx.map (fun b =>
      { pos := .address l b.2, leg := l, kind := .address b.1 })) = 0 := by
    refine readCount_eq_zero (fun x hx => ?_)
    obtain ⟨b, _, rfl⟩ := List.mem_map.mp hx
    rfl
  rw [Context.twoLegSlots, readCount_append, haddress, readCount_dataSlots, Nat.zero_add]

/-- Legs that each receive their length receive the read total together. -/
theorem readCount_flatMap_legs {f : Leg × Nat → List Slot}
    (hf : ∀ x, readCount (f x) = if x.1.op == .read then x.1.length else 0) (legs : List Leg) (k : Nat) :
    readCount ((legs.zipIdx k).flatMap f) = ((legs.filter (fun l => l.op == .read)).map Leg.length).sum := by
  induction legs generalizing k with
  | nil => rfl
  | cons leg legs ih =>
    rw [List.zipIdx_cons, List.flatMap_cons, readCount_append, ih, hf, List.filter_cons]
    split <;> simp

/-- An attempt on a two-wire port receives as many data bytes as its READ legs have. -/
theorem readCount_twoSlots (c : Context) (e : DeviceEntry) : readCount (c.twoSlots e) = c.readTotal :=
  readCount_flatMap_legs (fun x => readCount_twoLegSlots c e x.1 x.2) c.legs 0

/-! ### The port at the end of an attempt (R95) -/

/-- The attempt a port carries out is the one in its course. -/
theorem Part.twoCourse_of_carriesOut {s : Part} {p : TwoIx} {a : Attempt} {start : Time} {c : Context}
    (h : s.carriesOut p a start c) : s.twoCourse p = some { attempt := a, ctx := c, slots := c.twoSlots a.entry } := by
  obtain ⟨⟨phase, hphase⟩, hstart, hctx⟩ := h
  have hattempt : (s.twoAt p).startedAttempt = some a := by simp [TwoWire.startedAttempt, hphase, hstart]
  simp [Part.twoCourse, hattempt, hctx]

/-- The port after DONE: a stop has been driven, and it is IDLE with the view FREE. -/
def Part.stopDriven (s : Part) (p : TwoIx) (wire : List BusItem) : Part :=
  s.setTwo p ((s.twoAt p).afterStop s.time.count wire)

/-- The traffic of an attempt that has been carried out whole. -/
def doneWire (a : Attempt) (c : Context) (data : List Byte) : List BusItem :=
  twoTrace (crossed (c.twoSlots a.entry) data []) ++ [.stop]

theorem doneWire_head (a : Attempt) (c : Context) (data : List Byte) : (doneWire a c data).head? = some .start := rfl

theorem doneWire_getLast (a : Attempt) (c : Context) (data : List Byte) : (doneWire a c data).getLast? = some .stop :=
  List.getLast?_concat

/-- DONE ends the attempt on a port that has driven its stop (R95). -/
theorem Part.twoDone_eq {s : Part} {p : TwoIx} {a : Attempt} {start : Time} {c : Context} {data : List Byte}
    (h : s.carriesOut p a start c) (hdata : data.length = c.readTotal) :
    s.twoDone p data =
      (s.stopDriven p (doneWire a c data)).attemptEnded (twoPort p) a (.done data) s.now BusPoint.absent := by
  unfold Part.twoDone
  rw [Part.twoCourse_of_carriesOut h]
  simp only
  rw [if_pos (hdata.trans (readCount_twoSlots c a.entry).symm)]
  rfl

/-- Whatever the card, DONE leaves the port after its stop, and beside it the reports, contexts, devices and run state alone may change. -/
theorem Part.twoDone_onlyOutcome {s : Part} {p : TwoIx} {a : Attempt} {start : Time} {c : Context} {data : List Byte}
    (h : s.carriesOut p a start c) (hdata : data.length = c.readTotal) :
    OnlyOutcome (s.stopDriven p (doneWire a c data)) (s.twoDone p data) := by
  rw [Part.twoDone_eq h hdata]
  exact attemptEnded_onlyOutcome _ _ a _ _ _

theorem exec_twoWireDone (p : TwoIx) (data : List Byte) (s : State) :
    exec (.twoWireDone p data) s = .next { s with part := s.part.twoDone p data } := rfl

/-! ### The Device Status Unit at a success (R76, R81, R86) -/

theorem DeviceUnit.get_put (u : DeviceUnit) (d e : DevIx) (r : DeviceRecord) : (u.put d r).get e = if e = d then r else u.get e := by
  unfold DeviceUnit.get DeviceUnit.put
  simp only [Fin.getElem_fin, Vector.getElem_set]
  by_cases h : e = d
  · subst h; simp
  · have hv : d.val ≠ e.val := fun he => h (Fin.ext he.symm)
    simp [h, hv]

/-- The memory with the status word of `d` written, if the Device Status Unit's new contents change it (R86). -/
def Memory.withStatus (m : Memory) (old new : DeviceUnit) (d : DevIx) : Memory :=
  if new.statusWord d = old.statusWord d then m else m.setWord (Addr.status d) (new.statusWord d)

theorem Part.changeDevice_eq (s : Part) (u : DeviceUnit) (d : DevIx) :
    s.changeDevice u d = { s with dev := u, rep := { s.rep with mem := s.rep.mem.withStatus s.dev u d } } := by
  unfold Part.changeDevice Memory.withStatus
  simp only
  split <;> rfl

theorem Memory.wf_withStatus {m : Memory} (h : m.wf = true) (old new : DeviceUnit) (d : DevIx) :
    (m.withStatus old new d).wf = true := by
  unfold Memory.withStatus
  split
  · exact h
  · exact Memory.wf_setWord h _ _

theorem Memory.word_withStatus {m : Memory} (h : m.wf = true) (old new : DeviceUnit) (d : DevIx) :
    (m.withStatus old new d).word (Addr.status d) =
      if new.statusWord d = old.statusWord d then m.word (Addr.status d) else new.statusWord d := by
  unfold Memory.withStatus
  split
  · rfl
  · exact Memory.word_setWord h _ _

theorem Memory.get_withStatus {m : Memory} (h : m.wf = true) (old new : DeviceUnit) {d : DevIx} {a : Nat}
    (ha : ¬(Addr.status d ≤ a ∧ a < Addr.status d + 4)) : (m.withStatus old new d).get a = m.get a := by
  unfold Memory.withStatus
  split
  · rfl
  · exact Memory.get_setWord_outside h _ (by omega)

/-- The record of a device after a success (R76, R81). -/
def DeviceRecord.succeeded (r : DeviceRecord) (setting : Bool) (guardTime : Nat) (stop : Time) : DeviceRecord where
  health := if r.health = .fenced then .fenced else .healthy
  faults := if r.health = .fenced then r.faults else 0
  guard := if setting = true ∧ guardTime ≠ 0 then some (stop + BitVec.ofNat 32 (10 * guardTime)) else r.guard

theorem Part.deviceSucceeded_eq (s : Part) (d : DevIx) (setting : Bool) (guardTime : Nat) (stop : Time) :
    s.deviceSucceeded d setting guardTime stop =
      s.changeDevice (s.dev.put d ((s.dev.get d).succeeded setting guardTime stop)) d := by
  have hrecord : ∀ r : DeviceRecord,
      (let d0 := if r.health == .fenced then r else { r with health := .healthy, faults := 0 }
       if setting && decide (guardTime ≠ 0) then { d0 with guard := some (stop + BitVec.ofNat 32 (10 * guardTime)) } else d0) =
        r.succeeded setting guardTime stop := by
    rintro ⟨health, faults, guard⟩
    unfold DeviceRecord.succeeded
    by_cases hf : health = .fenced <;> by_cases hg : setting = true ∧ guardTime ≠ 0 <;> simp [hf, hg]
  unfold Part.deviceSucceeded
  simp only [hrecord]

/-- A success fences no device and clears no fence. -/
theorem DeviceUnit.isFenced_put_succeeded (u : DeviceUnit) (d e : DevIx) (setting : Bool) (guardTime : Nat) (stop : Time) :
    (u.put d ((u.get d).succeeded setting guardTime stop)).isFenced e = u.isFenced e := by
  unfold DeviceUnit.isFenced
  rw [DeviceUnit.get_put]
  by_cases he : e = d
  · subst he
    unfold DeviceRecord.succeeded
    cases (u.get e).health <;> simp
  · rw [if_neg he]

/-! ### A success counted, and the decision after it (R57, R135) -/

/-- What the words of a card's progress half show after a success: the progress word, the run count, the totals and the stamps;
the fields between stand, and so does every byte outside (R135). -/
structure Memory.ShowsEnd (m m' : Memory) (n : CardIx) (w run totals start stop : Word) : Prop where
  word : m'.word (Addr.progress n) = w
  run : m'.word (Addr.progress n + 8) = run
  totals : m'.word (Addr.progress n + 20) = totals
  start : m'.word (Addr.progress n + 24) = start
  stop : m'.word (Addr.progress n + 28) = stop
  kept : ∀ k, k = 4 ∨ k = 12 ∨ k = 16 → m'.word (Addr.progress n + k) = m.word (Addr.progress n + k)
  outside : ∀ a, ¬(Addr.progress n ≤ a ∧ a < Addr.progress n + 32) → m'.get a = m.get a

/-- The counters of a success, with the words they are written to (R135, step 4). -/
def counterWords (n : CardIx) (run totals start stop : Word) : List (Nat × Word) :=
  [(Addr.progress n + 8, run), (Addr.progress n + 20, totals), (Addr.progress n + 24, start), (Addr.progress n + 28, stop)]

theorem Memory.showsEnd_counters {m : Memory} (hm : m.wf = true) (n : CardIx) (live w run totals start stop : Word) :
    Memory.ShowsEnd m
      (((m.setWord (Addr.progress n) live).setList (counterWords n run totals start stop)).setWord (Addr.progress n) w)
      n w run totals start stop := by
  have hlive := Memory.wf_setWord hm (Addr.progress n) live
  have hlist := Memory.wf_setList (counterWords n run totals start stop) hlive
  have hdisjoint : (counterWords n run totals start stop).Pairwise (fun x y => x.1 + 4 ≤ y.1 ∨ y.1 + 4 ≤ x.1) := by
    simp [counterWords]
  have hcounter : ∀ {a : Nat} {v : Word}, (a, v) ∈ counterWords n run totals start stop → Addr.progress n + 4 ≤ a →
      (((m.setWord (Addr.progress n) live).setList (counterWords n run totals start stop)).setWord (Addr.progress n) w).word a = v :=
    fun hmem ha => (Memory.word_setWord_outside hlist _ (by omega)).trans (Memory.word_setList_of_mem hdisjoint hmem hlive)
  have hout : ∀ a, ¬(Addr.progress n ≤ a ∧ a < Addr.progress n + 4) →
      (∀ x ∈ counterWords n run totals start stop, a < x.1 ∨ x.1 + 4 ≤ a) →
      (((m.setWord (Addr.progress n) live).setList (counterWords n run totals start stop)).setWord (Addr.progress n) w).get a =
        m.get a := fun a ha hx =>
    (Memory.get_setWord_outside hlist _ (by omega)).trans
      ((Memory.get_setList_outside hx hlive).trans (Memory.get_setWord_outside hm _ (by omega)))
  exact {
    word := Memory.word_setWord hlist _ _
    run := hcounter (by simp [counterWords]) (by omega)
    totals := hcounter (by simp [counterWords]) (by omega)
    start := hcounter (by simp [counterWords]) (by omega)
    stop := hcounter (by simp [counterWords]) (by omega)
    kept := fun k hk => Memory.word_congr (fun b h1 h2 => hout b (by omega) (by simp [counterWords]; omega))
    outside := fun a ha => hout a (by omega) (by simp [counterWords]; omega) }

/-- The counters written at a success whose last attempt is `la` (R135, step 4). -/
theorem Part.writeCounters_success {s : Part} {c : Context} {la : LastAttempt} (h : c.last = some la) (n : CardIx) :
    s.writeCounters n c false =
      s.report (fun r =>
        { r with
          mem := (r.mem.setWord (Addr.progress n) c.liveWord).setList
            (counterWords n c.run (Word.ofHalves c.retriesTotal c.yieldsTotal) la.start la.stop) }) := by
  simp only [Part.writeCounters, h, Option.isSome_some, if_true, Bool.false_eq_true, if_false, Part.writeProgressWord,
    Part.writeLive, Part.report, Reports.writeProgress, Memory.setList, counterWords, List.foldl_cons, List.foldl_nil]

/-- A context that has counted a success whose last attempt is `la` (R16, R135). -/
def Context.succeeded (c : Context) (la : LastAttempt) : Context :=
  { c with
    last := some la, run := c.run + 1#32, retriesTotal := c.retriesTotal.saturatingAdd c.retryTally
    yieldsTotal := c.yieldsTotal.saturatingAdd c.yieldTally, deviceUsed := byteOf la.device.val }

/-- A success of a card without a bank: the counters are written, and the card goes on (R57). -/
theorem Part.endInstance_success {c : Context} (hbank : c.bankCount = 0) (s : Part) (n : CardIx) (la : LastAttempt) (data : List Byte)
    (f : Fresh) :
    s.endInstance n { c with last := some la } .ok data f =
      (s.writeCounters n (c.succeeded la) false).afterEnd n (c.succeeded la) .ok false f := by
  have hsample : s.resultSample n { c with last := some la } .ok data =
      { part := s, ctx := { c with last := some la }, invalid := false } := by
    unfold Part.resultSample
    simp only [hbank, if_true]
  unfold Part.endInstance
  rw [hsample]
  rfl

/-- A success ends a ONCE card, and an EVERY card whose count it uses up (R57, decision 2). -/
theorem Part.afterEnd_ends {c : Context} {result : ResultCode} (hend : c.pendingEnd = .none)
    (h : (c.kind = .once ∧ result = .ok) ∨ (c.kind = .every ∧ c.countUsed = true ∧ result = c.countResult)) (s : Part) (n : CardIx)
    (f : Fresh) : s.afterEnd n c .ok false f = s.endCardWork n c .ended result f := by
  unfold Part.afterEnd
  rcases h with ⟨hkind, rfl⟩ | ⟨hkind, hused, rfl⟩
  · simp [hend, PendingEnd.asEnd, hkind]
  · simp [hend, PendingEnd.asEnd, hkind, hused]

/-- The context of an EVERY card in debt that goes on with number k + 1, before its resolution (R57, decision 4). -/
def Context.owed (c : Context) : Context :=
  { c.serve (c.k + 1#32) with phase := .sleeping, debt := c.debt - 1, catchUpRun := true }

/-- An EVERY card in debt goes on with what it owes (R57, decision 4). -/
theorem Part.afterEnd_owed {c : Context} (hend : c.pendingEnd = .none) (hkind : c.kind = .every) (hused : c.countUsed = false)
    (hdebt : c.debt ≠ 0) (s : Part) (n : CardIx) (f : Fresh) :
    s.afterEnd n c .ok false f = ((s.writeLive n c.owed).setCtx n (some c.owed), .place f) := by
  unfold Part.afterEnd
  simp [hend, PendingEnd.asEnd, hkind, hused, hdebt, Context.owed]

/-! ### DONE as a whole -/

theorem Part.tryStop_of_running {s : Part} (h : s.run.state = .running) : s.tryStop = s := by
  simp [Part.tryStop, h]

/-- The end of an attempt that has reached DONE: the device is told, then the success is counted (R60). -/
theorem Part.attemptEnded_done {s : Part} {a : Attempt} {c : Context} (hctx : s.ctx a.card = some c) (port : PortIx)
    (data : List Byte) (stop : Time) :
    s.attemptEnded port a (.done data) stop BusPoint.absent =
      (Part.finish .plain a.card
        ((s.deviceSucceeded a.device c.flags.setting a.entry.guardTime stop).endInstance a.card
          { c with last := some (s.lastOf a stop) } .ok data .none)).tryStop := by
  unfold Part.attemptEnded
  rw [hctx]
  rfl

/-- The contents of the Device Status Unit after a success on the attempt's device. -/
def Part.devAfterDone (s : Part) (a : Attempt) (c : Context) : DeviceUnit :=
  s.dev.put a.device ((s.dev.get a.device).succeeded c.flags.setting a.entry.guardTime s.time.count)

/-- The memory with the device's status word, the progress word of a live card and the counters written. -/
def Part.memAfterDone (s : Part) (a : Attempt) (c : Context) (la : LastAttempt) : Memory :=
  ((s.rep.mem.withStatus s.dev (s.devAfterDone a c) a.device).setWord (Addr.progress a.card) (c.succeeded la).liveWord).setList
    (counterWords a.card (c.run + 1#32)
      (Word.ofHalves (c.retriesTotal.saturatingAdd c.retryTally) (c.yieldsTotal.saturatingAdd c.yieldTally)) la.start la.stop)

/-- The part after DONE with the device told and the counters written, before the decision on the card. -/
def Part.afterDone (s : Part) (p : TwoIx) (a : Attempt) (c : Context) (la : LastAttempt) (wire : List BusItem) : Part :=
  { s with
    rep := { s.rep with mem := s.memAfterDone a c la }
    dev := s.devAfterDone a c
    two := s.two.set p.val ((s.twoAt p).afterStop s.time.count wire) p.isLt }

theorem Part.afterDone_mem (s : Part) (p : TwoIx) (a : Attempt) (c : Context) (la : LastAttempt) (wire : List BusItem) :
    (s.afterDone p a c la wire).rep.mem = s.memAfterDone a c la := by
  simp only [Part.afterDone]

/-- DONE of a card without a bank comes to the decision after the success. -/
theorem Part.twoDone_noBank {s : Part} {p : TwoIx} {a : Attempt} {start : Time} {c : Context} {data : List Byte}
    (h : s.carriesOut p a start c) (hdata : data.length = c.readTotal) (hbank : c.bankCount = 0) :
    let la := s.endedNow a start
    s.twoDone p data =
      (Part.finish .plain a.card
        ((s.afterDone p a c la (doneWire a c data)).afterEnd a.card (c.succeeded la) .ok false .none)).tryStop := by
  intro la
  have hctx : (s.stopDriven p (doneWire a c data)).ctx a.card = some c := h.2.2
  have hlast : (s.stopDriven p (doneWire a c data)).lastOf a s.now = la := by
    simp only [Part.lastOf, h.2.1, Option.getD_some]
    rfl
  have hcounted : ((s.stopDriven p (doneWire a c data)).deviceSucceeded a.device c.flags.setting a.entry.guardTime
      s.now).writeCounters a.card (c.succeeded la) false = s.afterDone p a c la (doneWire a c data) := by
    rw [Part.deviceSucceeded_eq, Part.changeDevice_eq, Part.writeCounters_success (la := la) rfl]
    rfl
  rw [Part.twoDone_eq h hdata, Part.attemptEnded_done hctx, hlast, Part.endInstance_success hbank, hcounted]

/-- What the progress half shows, whatever progress word is written last. -/
theorem Part.showsEnd_afterDone {s : Part} (hm : s.rep.mem.wf = true) (a : Attempt) (c : Context) (la : LastAttempt) (w : Word) :
    Memory.ShowsEnd (s.rep.mem.withStatus s.dev (s.devAfterDone a c) a.device)
      ((s.memAfterDone a c la).setWord (Addr.progress a.card) w) a.card w (c.run + 1#32)
      (Word.ofHalves (c.retriesTotal.saturatingAdd c.retryTally) (c.yieldsTotal.saturatingAdd c.yieldTally)) la.start la.stop :=
  Memory.showsEnd_counters (Memory.wf_withStatus hm _ _ _) a.card _ w _ _ _ _

theorem Part.wf_memAfterDone {s : Part} (hm : s.rep.mem.wf = true) (a : Attempt) (c : Context) (la : LastAttempt) :
    (s.memAfterDone a c la).wf = true :=
  Memory.wf_setList _ (Memory.wf_setWord (Memory.wf_withStatus hm _ _ _) _ _)

/-- The words a DONE shows, in any memory that agrees with the one above from the status words on. -/
theorem Part.words_afterDone {s : Part} (hm : s.rep.mem.wf = true) (a : Attempt) (c : Context) (la : LastAttempt) (w : Word)
    {m : Memory} (hsame : ∀ x, Addr.status a.device ≤ x → m.get x = ((s.memAfterDone a c la).setWord (Addr.progress a.card) w).get x) :
    let half := Addr.progress a.card
    m.word half = w ∧
      m.word (half + 8) = c.run + 1#32 ∧ m.word (half + 12) = s.rep.mem.word (half + 12) ∧
        m.word (half + 16) = s.rep.mem.word (half + 16) ∧
        m.word (half + 20) =
          Word.ofHalves (c.retriesTotal.saturatingAdd c.retryTally) (c.yieldsTotal.saturatingAdd c.yieldTally) ∧
        m.word (half + 24) = la.start ∧ m.word (half + 28) = la.stop ∧ m.word (half + 4) = s.rep.mem.word (half + 4) ∧
        m.word (Addr.status a.device) =
          (if (s.devAfterDone a c).statusWord a.device = s.dev.statusWord a.device
            then s.rep.mem.word (Addr.status a.device) else (s.devAfterDone a c).statusWord a.device) := by
  intro half
  have hbelow : Addr.status a.device + 4 ≤ half := Addr.status_lt_progress a.device a.card
  have hshows := Part.showsEnd_afterDone hm a c la w
  have hread : ∀ k, m.word (half + k) = ((s.memAfterDone a c la).setWord half w).word (half + k) := fun k =>
    Memory.word_congr (fun b h1 _ => hsame b (by omega))
  have hkept : ∀ k, k = 4 ∨ k = 12 ∨ k = 16 → m.word (half + k) = s.rep.mem.word (half + k) := fun k hk =>
    (hread k).trans ((hshows.kept k hk).trans
      (Memory.word_congr (fun b h1 _ => Memory.get_withStatus hm _ _ (by omega))))
  refine ⟨(hread 0).trans hshows.word, (hread 8).trans hshows.run, hkept 12 (by omega), hkept 16 (by omega),
    (hread 20).trans hshows.totals, (hread 24).trans hshows.start, (hread 28).trans hshows.stop, hkept 4 (by omega), ?_⟩
  refine (Memory.word_congr (fun b h1 h2 => ?_)).trans (Memory.word_withStatus hm _ _ _)
  exact (hsame b h1).trans (hshows.outside b (by omega))

/-- The bytes a DONE leaves as they were. -/
theorem Part.get_afterDone {s : Part} (hm : s.rep.mem.wf = true) (a : Attempt) (c : Context) (la : LastAttempt) (w : Word) {x : Nat}
    (hhalf : ¬(Addr.progress a.card ≤ x ∧ x < Addr.progress a.card + 32))
    (hstatus : ¬(Addr.status a.device ≤ x ∧ x < Addr.status a.device + 4)) :
    ((s.memAfterDone a c la).setWord (Addr.progress a.card) w).get x = s.rep.mem.get x :=
  ((Part.showsEnd_afterDone hm a c la w).outside x hhalf).trans (Memory.get_withStatus hm _ _ hstatus)

theorem Part.setTwo_twoAt (s : Part) (p q : TwoIx) (t : TwoWire) : (s.setTwo p t).twoAt q = if q = p then t else s.twoAt q := by
  unfold Part.twoAt Part.setTwo
  simp only [Fin.getElem_fin, Vector.getElem_set]
  by_cases h : q = p
  · subst h; simp
  · have hv : p.val ≠ q.val := fun he => h (Fin.ext he.symm)
    simp [h, hv]

/-- The fences of the ports are those of their states. -/
theorem Part.portFenced_congr {s t : Part} (htwo : ∀ q, (t.twoAt q).isFenced = (s.twoAt q).isFenced) (hfour : t.four = s.four)
    (p : PortIx) : t.portFenced p = s.portFenced p := by
  unfold Part.portFenced
  split
  · exact htwo _
  · rw [hfour]

/-- DONE changes no resolution: a success fences nothing and clears no fence, nor does the stop. -/
theorem Part.resolve_afterDone {s t : Part} (hm : s.rep.mem.wf = true) {p : TwoIx} {a : Attempt} {start : Time} {c : Context}
    (h : s.carriesOut p a start c) (la : LastAttempt) (w : Word) (wire : List BusItem)
    (hmem : t.rep.mem = (s.memAfterDone a c la).setWord (Addr.progress a.card) w) (hdev : t.dev = s.devAfterDone a c)
    (htwo : t.two = s.two.set p.val ((s.twoAt p).afterStop s.time.count wire) p.isLt) (hfour : t.four = s.four) (d : DevIx) :
    t.resolve d = s.resolve d := by
  obtain ⟨⟨phase, hphase⟩, _⟩ := h
  refine Part.resolve_congr (fun x h1 h2 => ?_) (fun e => ?_) (by rw [hdev]; rfl) (Part.portFenced_congr (fun q => ?_) hfour) d
  · have hhalf := Addr.progress_eq a.card
    have hstatus : 0x0500 ≤ Addr.status a.device := by simp only [Addr.status]; omega
    rw [hmem]
    exact Part.get_afterDone hm a c la w (by omega) (by omega)
  · rw [hdev]
    exact DeviceUnit.isFenced_put_succeeded _ _ _ _ _ _
  · have hat : t.twoAt q = (s.setTwo p ((s.twoAt p).afterStop s.time.count wire)).twoAt q := by
      unfold Part.twoAt; rw [htwo]; rfl
    rw [hat, Part.setTwo_twoAt]
    split
    · rename_i hq
      subst hq
      simp [TwoWire.isFenced, TwoWire.afterStop, hphase]
    · rfl

theorem Part.endCard_ctx (s : Part) (n : CardIx) (c : Context) (state : ProgressState) (result : ResultCode) :
    (s.endCard n c state result).ctx n = none := Part.setCtx_ctx_self _ _ _

/-- A card with a context shows its end (R137). -/
theorem Part.endCard_cardEnded {s : Part} (hm : s.rep.mem.wf = true) (n : CardIx) (c : Context) (state : ProgressState)
    (result : ResultCode) : (s.endCard n c state result).cardEnded n c.generation state result :=
  Part.cardEnded_of_endWord (r := s.rep) hm (s.endCard_ctx n c state result) rfl

/-- A success that ends the card. -/
theorem Part.twoDone_ends {s : Part} {p : TwoIx} {a : Attempt} {start : Time} {c : Context} {data : List Byte} {result : ResultCode}
    (hrun : s.run.state = .running) (h : s.carriesOut p a start c) (hdata : data.length = c.readTotal)
    (hend : c.pendingEnd = .none) (hbank : c.bankCount = 0)
    (hresult : (c.kind = .once ∧ result = .ok) ∨
      (c.kind = .every ∧ (c.succeeded (s.endedNow a start)).countUsed = true ∧
        result = (c.succeeded (s.endedNow a start)).countResult)) :
    s.twoDone p data =
      (s.afterDone p a c (s.endedNow a start) (doneWire a c data)).endCard a.card (c.succeeded (s.endedNow a start)) .ended
        result := by
  rw [Part.twoDone_noBank h hdata hbank, Part.afterEnd_ends (c := c.succeeded _) hend hresult, Part.endCardWork,
    Part.finish_free (Part.endCard_ctx _ _ _ _ _), Part.tryStop_of_running]
  exact hrun

/-- A success of a card in debt: number k + 1 is placed at once. -/
theorem Part.twoDone_owed {s : Part} {p : TwoIx} {a : Attempt} {start : Time} {c : Context} {data : List Byte} {r : Resolution}
    (hm : s.rep.mem.wf = true) (hrun : s.run.state = .running) (h : s.carriesOut p a start c) (hdata : data.length = c.readTotal)
    (hend : c.pendingEnd = .none) (hbank : c.bankCount = 0) (hkind : c.kind = .every)
    (hused : (c.succeeded (s.endedNow a start)).countUsed = false) (hdebt : c.debt ≠ 0) (hr : s.resolve c.device = .ok r) :
    let x := (c.succeeded (s.endedNow a start)).owed
    s.twoDone p data =
      ((s.afterDone p a c (s.endedNow a start) (doneWire a c data)).writeLive a.card x).setCtx a.card (some (x.placed r none)) := by
  intro x
  generalize ht : ((s.afterDone p a c (s.endedNow a start) (doneWire a c data)).writeLive a.card x).setCtx a.card (some x) = t
  have hafter : (s.afterDone p a c (s.endedNow a start) (doneWire a c data)).afterEnd a.card (c.succeeded (s.endedNow a start))
      .ok false .none = (t, .place .none) := by
    rw [← ht]
    exact Part.afterEnd_owed (c := c.succeeded (s.endedNow a start)) hend hkind hused hdebt _ _ _
  have hmem : t.rep.mem = (s.memAfterDone a c (s.endedNow a start)).setWord (Addr.progress a.card) x.liveWord := by
    rw [← ht]; simp only [Part.setCtx_rep, Part.writeLive_rep, Part.afterDone, Reports.writeProgress]
  have hdev : t.dev = s.devAfterDone a c := by
    rw [← ht]; simp only [Part.setCtx_dev, Part.writeLive_dev, Part.afterDone]
  have htwo : t.two = s.two.set p.val ((s.twoAt p).afterStop s.time.count (doneWire a c data)) p.isLt := by
    rw [← ht]; simp only [Part.setCtx_two, Part.writeLive_two, Part.afterDone]
  have hfour : t.four = s.four := by
    rw [← ht]; simp only [Part.setCtx_four, Part.writeLive_four, Part.afterDone]
  have htrun : t.run = s.run := by
    rw [← ht]; simp only [Part.setCtx_run, Part.writeLive_run, Part.afterDone]
  have hres : t.resolve x.device = .ok r :=
    (Part.resolve_afterDone hm h (s.endedNow a start) x.liveWord (doneWire a c data) hmem hdev htwo hfour c.device).trans hr
  have hfinish : Part.finish .plain a.card (t, .place .none) = t.setCtx a.card (some (x.placed r none)) := by
    refine Part.finish_one (x := (t.setCtx a.card (some (x.placed r none)), .settle .none)) ?_ ?_
    · have hctx : t.ctx a.card = some x := by rw [← ht, Part.setCtx_ctx_self]
      rw [Part.workOnce_place hctx, Part.placeInstance_ok hres]
    · rw [Part.workOnce_settle (Part.setCtx_ctx_self _ _ _), Part.nextEvent_none]
      rfl
  rw [Part.twoDone_noBank h hdata hbank, hafter, hfinish, Part.tryStop_of_running (by rw [Part.setCtx_run, htrun, hrun]),
    ← ht]
  simp only [Part.setCtx, Vector.set_set]

theorem Context.countUsed_iff {c : Context} :
    c.countUsed = true ↔ c.count ≠ 0 ∧ c.run + c.missed = BitVec.ofNat 32 c.count := by
  simp [Context.countUsed]

/-- Settles O39: the frame of an attempt's end, and for a card without a bank the decision after its success. -/
theorem twoWireDoneEndsOnceCard : Obligations.TwoWireDoneEndsOnceCard := by
  refine ⟨fun s p a start c data h hdata => ?_, ?_⟩
  · have hframe := Part.twoDone_onlyOutcome h hdata
    exact ⟨{ s with part := s.part.twoDone p data }, doneWire a c data, exec_twoWireDone p data s, doneWire_head a c data,
      doneWire_getLast a c data, rfl, hframe.two, hframe.time, hframe.host, hframe.intake, hframe.waiting, hframe.four,
      hframe.freeCount⟩
  · intro s p a start c data hm hrun h hdata hend hbank now device record u half bit used counted shows after
    let la := s.part.endedNow a start
    let wire := doneWire a c data
    refine ⟨fun result hresult => ?_, fun r hkind hcount hdebt hr => ?_⟩
    · let w := (c.succeeded la).wordAs .ended result
      have hdone := Part.twoDone_ends hrun h hdata hend hbank (hresult.imp_right (fun ⟨hkind, hc, hu, hres⟩ =>
        ⟨hkind, Context.countUsed_iff.mpr ⟨hc, hu⟩, hres⟩))
      have hmem := Part.afterDone_mem s.part p a c la wire
      have hwf : (s.part.afterDone p a c la wire).rep.mem.wf = true := by rw [hmem]; exact Part.wf_memAfterDone hm a c la
      have hget := fun x => Reports.get_endWord (n := a.card) hwf w (a := x)
      simp only [Reports.writeProgress, hmem] at hget
      obtain ⟨hword, hshows⟩ := Part.words_afterDone hm a c la w
        (m := ((s.part.afterDone p a c la wire).rep.endWord a.card w).mem)
        (fun x hx => hget x (by have := Addr.doneWord_lt_status a.card a.device; omega))
      have hpart : (s.part.afterDone p a c la wire).endCard a.card (c.succeeded la) .ended result =
          after
            { s.part.rep with
              mem := ((s.part.afterDone p a c la wire).rep.endWord a.card w).mem
              done := s.part.rep.done ||| bit, cause := s.part.rep.cause ||| 0x01#8 } wire none := by
        simp only [Part.endCard, Part.report, Part.setCtx, Reports.endWord_eq, Part.afterDone, after]
        rfl
      refine ⟨((s.part.afterDone p a c la wire).rep.endWord a.card w).mem, wire, ?_, ?_, hword, hshows, fun x hx hstatus => ?_⟩
      · rw [exec_twoWireDone, hdone, hpart]
      · rw [← hpart]
        exact Part.endCard_cardEnded hwf a.card (c.succeeded la) .ended result
      · exact (hget x (fun hd => hx (Or.inr hd))).trans (Part.get_afterDone hm a c la w (fun hp => hx (Or.inl hp)) hstatus)
    · let x := (c.succeeded la).owed
      have hnot : (c.succeeded la).countUsed = false :=
        Bool.eq_false_iff.mpr (fun hu => by
          obtain ⟨hne, heq⟩ := Context.countUsed_iff.mp hu
          exact hcount.elim hne (fun hn => hn heq))
      have hdone := Part.twoDone_owed hm hrun h hdata hend hbank hkind hnot hdebt hr
      obtain ⟨hword, hshows⟩ := Part.words_afterDone hm a c la x.liveWord
        (m := (s.part.memAfterDone a c la).setWord (Addr.progress a.card) x.liveWord) (fun _ _ => rfl)
      refine ⟨(s.part.memAfterDone a c la).setWord half x.liveWord, wire, ?_, hword, hshows,
        fun b hb hstatus => Part.get_afterDone hm a c la x.liveWord hb hstatus⟩
      rw [exec_twoWireDone, hdone]
      simp only [Part.writeLive, Part.report, Part.setCtx, Reports.writeProgress, Part.afterDone, after]
      rfl

end Sys2Proof.Machine
end

section
/-! Reset, and the sweep: its beginning with the header read, and visits that take no action (R21 to R26, R28, R173). -/

namespace Sys2Proof.Machine

/-! ### Reset -/

/-- Settles O3: every field of the state after reset is a literal, and each of its vectors holds one value throughout. -/
theorem resetLeavesStatedValues : Obligations.ResetLeavesStatedValues := by
  unfold Obligations.ResetLeavesStatedValues
  intro p
  have hdev : ∀ d : DevIx, p.dev.get d = DeviceRecord.reset := fun d => Vector.getElem_replicate _
  have hctx : ∀ n : CardIx, p.ctx n = none := fun n => Vector.getElem_replicate _
  have htwo : ∀ q : TwoIx, p.twoAt q = TwoWire.reset := fun q => Vector.getElem_replicate _
  have hfour : ∀ q : FourIx, p.fourAt q = FourWire.reset false := fun q => Vector.getElem_replicate _
  have hirq : p.irq = false := by decide
  refine ⟨⟨rfl, rfl, rfl, rfl, rfl⟩, fun _ => rfl, ⟨rfl, rfl, rfl, rfl, rfl⟩, ⟨rfl, rfl, rfl, rfl, hirq⟩,
    ⟨rfl, rfl, rfl, rfl⟩, hdev, rfl, hctx, fun q => ?_, fun q => ?_⟩
  · rw [htwo q]; exact ⟨rfl, rfl, rfl, rfl, rfl⟩
  · rw [hfour q]; exact ⟨rfl, rfl, rfl⟩

/-! ### The header read (R25, Table 2-1) -/

/-- The code of the first value out of range, where the checks of the five values are given in the order of Table 2-1. -/
def firstFaultCode (ok : List Bool) : Nat :=
  match ok.findIdx? (fun b => !b) with
  | some i => i + 2
  | none => 0

theorem HeaderWords.fault_code (h : HeaderWords) :
    h.fault.code = firstFaultCode [h.intervalOk, h.holdoffOk, h.thresholdOk, h.levelOk, h.holdLimitOk] := by
  unfold HeaderWords.fault
  cases h.intervalOk; · rfl
  cases h.holdoffOk; · rfl
  cases h.thresholdOk; · rfl
  cases h.levelOk; · rfl
  cases h.holdLimitOk <;> rfl

theorem HeaderFault.code_eq_zero_iff (f : HeaderFault) : f.code = 0 ↔ f = .none := by
  cases f <;> simp [HeaderFault.code]

/-- Each value in its range comes into force, and the others stay. -/
theorem HeaderWords.mergeInto_eq (h : HeaderWords) (old : Header) :
    h.mergeInto old =
      { interval := if 100 ≤ h.interval ∧ h.interval ≤ 100000 then h.interval else old.interval
        holdoff := if h.holdoff ≤ 65535 then h.holdoff else old.holdoff
        threshold := if 1 ≤ h.threshold ∧ h.threshold ≤ 255 then h.threshold else old.threshold
        level := if h.level = 0 then .quiet else if h.level = 1 then .full else old.level
        holdLimit := if 1 ≤ h.holdLimit ∧ h.holdLimit ≤ 255 then h.holdLimit else old.holdLimit } := by
  have hlevel : (if h.levelOk then logLevelOf h.level else old.level) =
      if h.level = 0 then .quiet else if h.level = 1 then .full else old.level := by
    unfold HeaderWords.levelOk logLevelOf
    by_cases h0 : h.level = 0
    · simp [h0]
    · by_cases h1 : h.level = 1
      · simp [h1]
      · have hout : ¬ h.level ≤ 1 := by omega
        simp [h0, h1, hout]
  unfold HeaderWords.mergeInto
  rw [hlevel]
  simp only [HeaderWords.intervalOk, HeaderWords.holdoffOk, HeaderWords.thresholdOk, HeaderWords.holdLimitOk,
    Bool.and_eq_true, decide_eq_true_eq]

/-! ### The beginning of a sweep (R22, R25, R26) -/

/-- The header values that come into force with the header read now. -/
def Part.headerRead (s : Part) : Option Header := s.intake.header.map (readHeader s.rep.mem).mergeInto

/-- The part with the header values read now in force. -/
def Part.withHeaderRead (s : Part) : Part := { s with intake := { s.intake with header := s.headerRead } }

/-- What the beginning of a sweep changes: the Intake Unit, the limits a recovery notes, the header fault field and CAUSE.HEADER. -/
theorem Part.beginSweep_eq (s : Part) :
    s.beginSweep =
      { s with
        intake := { s.intake with timer := none, pos := some 0, header := s.headerRead }
        two := s.two.map (fun t => t.noteLimit s.now s.withHeaderRead.holdLimitUs)
        rep :=
          { s.rep with
            mem := s.rep.mem.setWord 0x0040 (BitVec.ofNat 32 (readHeader s.rep.mem).fault.code)
            cause := if (readHeader s.rep.mem).fault = .none then s.rep.cause else s.rep.cause ||| 0x20#8 } } := by
  unfold Part.beginSweep Part.readPostingHeader
  by_cases hf : (readHeader s.rep.mem).fault = .none
  · simp only [if_pos hf]; rfl
  · simp only [if_neg hf]; rfl

/-- A sweep stops its timer, however it stood. -/
theorem Part.beginSweep_timer (s : Part) (timer : Option Time) :
    ({ s with intake := { s.intake with timer := timer } } : Part).beginSweep = s.beginSweep := by
  rw [Part.beginSweep_eq, Part.beginSweep_eq]
  rfl

/-- The expiry of the sweep timer in RUNNING with no sweep in progress begins one (R22). -/
theorem exec_sweepTimerExpiry {s : State} {e : Time} (hrun : s.part.run.state = .running) (hpos : s.part.intake.pos = none)
    (htimer : s.part.intake.timer = some e) (hdue : Time.atOrAfter s.part.time.count e = true) :
    exec .sweepTimerExpiry s = .next { s with part := s.part.beginSweep } := by
  have hexpired : s.part.expired s.part.intake.timer = true := by rw [htimer]; exact hdue
  change Host.Outcome.next { s with part := s.part.sweepTimerExpired } = _
  rw [Part.sweepTimerExpired, if_pos ⟨hrun, hpos, hexpired⟩]

/-- A nudge while the port is ready (R23). -/
theorem exec_nudge {s : State} (hready : s.part.notReady = false) :
    exec .nudge s = .next { s with part := s.part.nudge } := by
  change Host.Outcome.next { s with part := s.part.hostAccess .nudge } = _
  rw [Part.hostAccess, hready]
  rfl

theorem Time.atOrAfter_self (t : Time) : Time.atOrAfter t t = true := by simp [Time.atOrAfter]

/-- Settles O18: a nudge in RUNNING begins a sweep or owes one, by the sweep position. -/
theorem nudgeBeginsOrOwesSweep : Obligations.NudgeBeginsOrOwesSweep := by
  intro s hready
  rw [exec_nudge hready, Part.nudge]
  refine ⟨fun hrun hpos => ?_, fun hrun hpos => ?_, fun hrun => by rw [if_neg hrun]⟩
  · have hexpiry : exec .sweepTimerExpiry
        { s with part := { s.part with intake := { s.part.intake with timer := some s.part.time.count } } } =
        .next { s with part := s.part.beginSweep } :=
      (exec_sweepTimerExpiry
        (s := { s with part := { s.part with intake := { s.part.intake with timer := some s.part.time.count } } })
        hrun hpos rfl (Time.atOrAfter_self _)).trans (by rw [Part.beginSweep_timer])
    rw [if_pos hrun, hpos]
    refine ⟨{ s with part := s.part.beginSweep }, rfl, ?_, ?_, ?_, ?_, ?_, hexpiry, ?_, ?_, ?_⟩
    case refine_6 =>
      rw [Part.beginSweep_eq]
      exact congrArg (fun f => s.part.intake.header.map f) (funext (readHeader s.part.rep.mem).mergeInto_eq)
    all_goals rw [Part.beginSweep_eq]
  · have hsome : ¬ s.part.intake.pos.isNone = true := by simpa using hpos
    rw [if_pos hrun, if_neg hsome]

/-- Settles O19: the beginning of a sweep, with the header values and the fault code written out. -/
theorem sweepBeginsWithHeader : Obligations.SweepBeginsWithHeader := by
  intro s e old hrun hpos htimer hdue hheader m w ok fault holdLimit
  have hfault : (readHeader s.part.rep.mem).fault.code = fault := by
    rw [HeaderWords.fault_code]
    simp only [HeaderWords.intervalOk, HeaderWords.holdoffOk, HeaderWords.thresholdOk, HeaderWords.levelOk,
      HeaderWords.holdLimitOk, ← Bool.decide_and]
    rfl
  have hnone : (readHeader s.part.rep.mem).fault = .none ↔ fault = 0 := by
    rw [← hfault]; exact (HeaderFault.code_eq_zero_iff _).symm
  have hread : s.part.headerRead = some ((readHeader s.part.rep.mem).mergeInto old) := by rw [Part.headerRead, hheader]; rfl
  have hlimit : s.part.withHeaderRead.holdLimitUs = 1000 * holdLimit := by
    unfold Part.holdLimitUs Part.withHeaderRead
    simp only [hread, HeaderWords.mergeInto_eq]
    rfl
  have hnote : (fun t : TwoWire => t.noteLimit s.part.now (1000 * holdLimit)) = fun t =>
      match t.state with
      | .recovering r => { t with state := .recovering { r with changes := (s.part.time.count, 1000 * holdLimit) :: r.changes } }
      | _ => t := by
    funext t
    unfold TwoWire.noteLimit
    cases t.state <;> rfl
  rw [exec_sweepTimerExpiry hrun hpos htimer hdue, Part.beginSweep_eq, if_congr hnone rfl rfl, hlimit, hread,
    HeaderWords.mergeInto_eq, hfault, hnote]
  rfl

/-! ### Visits that take no action (R22, R24, R28, R173) -/

/-- A visit with no control card in execution is what it does to its card, and its end (R22, R28). -/
theorem exec_visit {s : State} {n : CardIx} (hpos : s.part.intake.pos = some n) (hctl : s.part.intake.control = none)
    (dataHigh : Bool) :
    exec (.visit dataHigh) s = .next { s with part := (s.part.visitCard n dataHigh).endVisit n } := by
  change Host.Outcome.next { s with part := s.part.visit dataHigh } = _
  rw [Part.visit, hpos]
  simp only [hctl, Option.isNone_none, if_true]

/-- A visit whose decision is no action does nothing but end. -/
theorem exec_visit_noAction {s : State} {n : CardIx} (hpos : s.part.intake.pos = some n) (hctl : s.part.intake.control = none)
    (hdec : decideVisit (orderOf s.part.rep.mem n) (s.part.recorded n) = .noAction) (dataHigh : Bool) :
    exec (.visit dataHigh) s = .next { s with part := s.part.visitEnded n } := by
  have hcard : s.part.visitCard n dataHigh = s.part := by rw [Part.visitCard, hdec]
  rw [exec_visit hpos hctl, hcard, Part.endVisit, hctl]
  rfl

/-- The end of the visit to the last card in RUNNING completes the sweep (R22). -/
theorem Part.visitEnded_last {s : Part} {n : CardIx} (hrun : s.run.state = .running) (hn : n.val = 95) :
    s.visitEnded n = s.completeSweep := by
  have hlast : ¬ n.val + 1 < Config.cards := by rw [hn]; decide
  rw [Part.visitEnded, if_neg (by rw [hrun]; decide), dif_neg hlast]

/-- A sweep complete with none owed starts the sweep timer (R22). -/
theorem Part.completeSweep_notOwed {s : Part} (h : s.intake.pending = false) :
    s.completeSweep =
      { s with
        rep := { s.rep with mem := s.rep.mem.setWord 0x0044 (s.rep.mem.word 0x0044 + 1#32) }
        intake := { s.intake with pos := none, timer := some (s.time.count + BitVec.ofNat 32 s.sweepInterval) } } := by
  rw [Part.completeSweep, h]
  rfl

/-- A sweep complete with one owed begins that one (R22, R23). -/
theorem Part.completeSweep_owed {s : Part} (h : s.intake.pending = true) :
    s.completeSweep.intake.pos = some 0 ∧ s.completeSweep.intake.pending = false ∧ s.completeSweep.intake.timer = none := by
  rw [Part.completeSweep, if_pos h, Part.beginSweep_eq]
  exact ⟨rfl, rfl, rfl⟩

/-- The end of a visit in QUIESCING ends the sweep, and with no attempt in progress the part enters STOPPED (R24, R173). -/
theorem Part.visitEnded_quiescing {s : Part} (hrun : s.run.state = .quiescing) (n : CardIx) :
    s.visitEnded n =
      let q := { s with intake := { s.intake with pos := none, pending := false } }
      if s.attemptInProgress then q
      else
        { q with
          run := { s.run with state := .stopped, stoppedAt := s.time.count }
          rep := { s.rep with cause := s.rep.cause ||| 0x80#8 } } := by
  have hattempt : ({ s with intake := { s.intake with pos := none, pending := false } } : Part).attemptInProgress =
      s.attemptInProgress := rfl
  rw [Part.visitEnded, if_pos hrun, Part.tryStop, hattempt]
  cases s.attemptInProgress
  · rw [if_pos (by simp [hrun])]; rfl
  · rw [if_neg (by simp)]; rfl

/-- Settles O21: the end of the visit by the run state and the card, and the done word a visit may clear. -/
theorem visitWithoutActionGoesOn : Obligations.VisitWithoutActionGoesOn := by
  refine ⟨?_, ?_, ?_⟩
  · intro s n dataHigh hrun hpos hctl hdec
    refine ⟨fun h => ?_, fun hn hpending => ?_, fun hn hpending => ?_⟩
    · have hcard : s.part.visitCard n dataHigh = s.part := by rw [Part.visitCard, hdec]
      exact exec_visit_goesOn h hrun hpos hctl hcard rfl rfl
    · rw [exec_visit_noAction hpos hctl hdec, Part.visitEnded_last hrun hn, Part.completeSweep_notOwed hpending]
    · rw [exec_visit_noAction hpos hctl hdec, Part.visitEnded_last hrun hn]
      exact ⟨_, rfl, Part.completeSweep_owed hpending⟩
  · intro s n dataHigh hrun hpos hctl hdec q
    rw [exec_visit_noAction hpos hctl hdec, Part.visitEnded_quiescing hrun]
    exact ⟨fun hattempt => by rw [if_pos hattempt], fun hattempt => by rw [if_neg (by simp [hattempt])]⟩
  · intro s n dataHigh h hm hrun hpos hctl hdec word done
    have hcard : s.part.visitCard n dataHigh = s.part.report (fun r => r.clearDone n) := by rw [Part.visitCard, hdec]
    exact ⟨(s.part.rep.clearDone n).mem, exec_visit_goesOn h hrun hpos hctl hcard rfl rfl, Memory.word_setWord hm _ _,
      fun a ha => Reports.get_clearDone hm ha⟩

end Sys2Proof.Machine
end

section
/-! Validation: the checks in the order of Table 2-3, and what makes legs, bank, timing and a device's entry legal (R10, R12, R36). -/

namespace Sys2Proof.Machine

/-! ### Legs, bank, timing and entry -/

theorem LegField.legal_iff (l : LegField) :
    l.legal = true ↔
      (l.op = 1 ∧ 1 ≤ l.length ∧ l.length ≤ 44 ∧ l.offset + l.length ≤ 44) ∨ (l.op = 2 ∧ 1 ≤ l.length) := by
  simp [LegField.legal, LegField.isWrite, LegField.isRead, and_assoc]

/-- The legs are legal (R10). -/
theorem Request.legsLegal_iff (r : Request) :
    r.legsLegal = true ↔ (1 ≤ r.legCount ∧ r.legCount ≤ 4) ∧ (∀ l ∈ r.usedLegs, l.legal = true) ∧
      r.total LegField.isWrite ≤ 44 ∧ r.total LegField.isRead ≤ 18 := by
  simp only [Request.legsLegal, Bool.and_eq_true, decide_eq_true_eq, List.all_eq_true, and_assoc]

/-- The bank fields are legal (R12). -/
theorem Request.bankLegal_iff (r : Request) :
    r.bankLegal = true ↔ r.bankCount ≤ 64 ∧ (r.bankCount ≠ 0 → r.bankFirst + r.bankCount ≤ 512) ∧
      ((∃ l ∈ r.usedLegs, l.op = 2) → r.bankCount ≠ 0) := by
  have hread : r.usedLegs.any LegField.isRead = true ↔ ∃ l ∈ r.usedLegs, l.op = 2 := by
    simp [LegField.isRead]
  rw [← hread]
  by_cases hcount : r.bankCount = 0
  · simp [Request.bankLegal, hcount]
  · simp [Request.bankLegal, hcount]

/-- The priority and timing fields are legal (R36). -/
theorem Request.timingLegal_iff (r : Request) :
    r.timingLegal = true ↔ r.priority ≤ 3 ∧
      (r.kind = 2 → 50 ≤ r.period.toNat ∧ r.period.toNat ≤ 2000000000 ∧ (r.window = 0 ∨ r.window ≤ r.period.toNat)) := by
  by_cases hkind : r.kind = 2
  · simp [Request.timingLegal, hkind, and_assoc]
  · simp [Request.timingLegal, hkind]

/-- Banks overlap where they share a slot. -/
theorem Bank.overlaps_iff (a b : Bank) :
    a.overlaps b = true ↔ ∃ slot : Nat, (a.first ≤ slot ∧ slot < a.first + a.count) ∧
      (b.first ≤ slot ∧ slot < b.first + b.count) := by
  simp only [Bank.overlaps, Bool.and_eq_true, bne_iff_ne, decide_eq_true_eq]
  constructor
  · intro h
    exact ⟨max a.first b.first, by omega, by omega⟩
  · rintro ⟨slot, ha, hb⟩
    omega

/-- An entry is PRESENT and legal (R70, Table 4-1). -/
theorem DeviceEntry.usable_iff (e : DeviceEntry) :
    e.usable = true ↔ e.present = true ∧ e.port ≤ 3 ∧
      (e.port < 2 → (if e.tenBit then e.address ≤ 1023 else 0x08 ≤ e.address ∧ e.address ≤ 0x77) ∧ e.speed ≤ 2) ∧
      (2 ≤ e.port → e.address ≤ 3 ∧ e.mode ≤ 3) ∧ e.retryLimit ≤ 7 ∧ e.threshold ≤ 15 ∧
      (e.standby ≤ 63 ∨ e.standby = 0xFF) ∧ 1 ≤ e.reply := by
  by_cases hport : e.port < 2
  · have hnot : ¬ 2 ≤ e.port := by omega
    by_cases hten : e.tenBit = true
    · simp [DeviceEntry.usable, DeviceEntry.legal, hport, hnot, hten, and_assoc]
    · simp [DeviceEntry.usable, DeviceEntry.legal, hport, hnot, hten, and_assoc]
  · have hfour : 2 ≤ e.port := by omega
    simp [DeviceEntry.usable, DeviceEntry.legal, hport, hfour, and_assoc]

/-! ### The checks in their order (Table 2-3) -/

theorem devIx?_of_lt {k : Nat} (h : k < 64) : devIx? k = some ⟨k, h⟩ := dif_pos h

theorem devIx?_of_not_lt {k : Nat} (h : ¬ k < 64) : devIx? k = none := dif_neg h

/-- Check 3: the device is accepted where its entry is usable (R35). -/
theorem Part.acceptableDevice_some {s : Part} {r : Request} (h : r.device < 64)
    (hu : (readEntry s.rep.mem ⟨r.device, h⟩).usable = true) : s.acceptableDevice r = some ⟨r.device, h⟩ := by
  simp [Part.acceptableDevice, devIx?_of_lt h, hu]

theorem Part.acceptableDevice_none {s : Part} {r : Request}
    (h : ¬ ∃ h : r.device < 64, (readEntry s.rep.mem ⟨r.device, h⟩).usable = true) : s.acceptableDevice r = none := by
  by_cases hlt : r.device < 64
  · have hu : (readEntry s.rep.mem ⟨r.device, hlt⟩).usable = false := by simpa [hlt] using h
    simp [Part.acceptableDevice, devIx?_of_lt hlt, hu]
  · simp [Part.acceptableDevice, devIx?_of_not_lt hlt]

/-- The bank is taken where another card reserves one that overlaps (R37). -/
theorem Part.bankTaken_iff (s : Part) (n : CardIx) (b : Bank) :
    s.bankTaken n b = true ↔ ∃ m a, m ≠ n ∧ s.reservation m = some a ∧ a.overlaps b = true := by
  simp only [Part.bankTaken, allCards, List.any_eq_true, List.mem_finRange, true_and, Bool.and_eq_true, bne_iff_ne]
  refine exists_congr (fun m => ?_)
  cases s.reservation m <;> simp

/-- Past the check and the kind, the rest decides. -/
theorem Part.validate_known {s : Part} {n : CardIx} {r : Request} (hcheck : crc16 r.covered = r.check)
    (hkind : 1 ≤ r.kind ∧ r.kind ≤ 5) : s.validate n r = s.checkKind n r := by
  rw [Part.validate, if_neg (fun h => h hcheck), if_neg (by omega)]

/-- A card of a kind with a device, its device accepted: a control card is valid, a transfer card is checked further. -/
theorem Part.checkKind_device {s : Part} {r : Request} {d : DevIx} (hkind : r.kind ≠ 5) (hd : s.acceptableDevice r = some d)
    (n : CardIx) :
    s.checkKind n r =
      if r.kind = 3 then .ok (.substitute d r.aux)
      else if r.kind = 4 then .ok (.restore d)
      else s.checkTransfer n r (if r.kind = 1 then .once else .every) d := by
  rw [Part.checkKind, if_neg hkind, hd]

/-- Settles O22: each check is reached where those before it pass, and its condition is the one of Table 2-3. -/
theorem validationStopsAtFirstFailure : Obligations.ValidationStopsAtFirstFailure := by
  refine ⟨?_, ?_, DeviceEntry.usable_iff⟩
  · intro s n r p deviceOk
    refine ⟨(p.validate_rejectCheck_iff n r).mpr, fun hcheck => ⟨fun hkind => ?_, ?_, ?_, ?_, ?_⟩⟩
    · rw [Part.validate, if_neg (fun h => h hcheck), if_pos hkind]
    · intro hkind haux
      rw [Part.validate_known hcheck (by omega), Part.checkKind, if_pos hkind, dif_neg (by omega)]
    · intro haux hkind
      rw [Part.validate_known hcheck (by omega), Part.checkKind, if_pos hkind, dif_pos haux]
    · intro hlow hhigh hdevice
      rw [Part.validate_known hcheck (by omega), Part.checkKind, if_neg (by omega), Part.acceptableDevice_none hdevice]
    · intro hlt husable
      have hdevice := Part.acceptableDevice_some hlt husable
      refine ⟨fun hkind => ?_, fun hkind => ?_, fun hkind => ?_⟩
      · rw [Part.validate_known hcheck (by omega), Part.checkKind_device (by omega) hdevice, if_pos hkind]
      · rw [Part.validate_known hcheck (by omega), Part.checkKind_device (by omega) hdevice, if_neg (by omega), if_pos hkind]
      · have htransfer : p.validate n r = p.checkTransfer n r (if r.kind = 1 then .once else .every) ⟨r.device, hlt⟩ := by
          rw [Part.validate_known hcheck (by omega), Part.checkKind_device (by omega) hdevice, if_neg (by omega),
            if_neg (by omega)]
        rw [htransfer, Part.checkTransfer]
        refine ⟨fun hlegs => ?_, fun hlegs hbank => ?_, fun hlegs hbank htiming => ?_, r.timingLegal_iff,
          fun hlegs hbank htiming => ⟨fun htaken => ?_, fun hfree => ?_⟩⟩
        · simp [hlegs]
        · simp [hlegs, hbank]
        · simp [hlegs, hbank, htiming]
        · simp [hlegs, hbank, htiming, (p.bankTaken_iff n r.bank).mpr htaken]
        · have hnot : p.bankTaken n r.bank = false := Bool.eq_false_iff.mpr (fun htaken => by
            obtain ⟨m, a, hne, ha, hover⟩ := (p.bankTaken_iff n r.bank).mp htaken
            rw [hfree m a hne ha] at hover
            cases hover)
          simp [hlegs, hbank, htiming, hnot]
  · intro r legs total
    refine ⟨?_, r.bankLegal_iff, Bank.overlaps_iff⟩
    rw [Request.legsLegal_iff]
    simp only [LegField.legal_iff]
    rfl

end Sys2Proof.Machine
end

section
/-! Withdrawals by a visit, and the control cards SUBSTITUTE, RESTORE and PORT_CLEAR (R30, R42 to R45, R62 to R64, R84, R85, R107,
R122). -/

namespace Sys2Proof.Machine

/-! ### Withdrawals (R30, R62 to R64) -/

/-- A card's end writes its progress word and its word of the done map alone (R137). -/
theorem Reports.endWord_mem {r : Reports} (h : r.mem.wf = true) (n : CardIx) (w : Word) :
    let m := (r.endWord n w).mem
    m.word (Addr.progress n) = w ∧
      ∀ a : Nat, (Addr.progress n + 4 ≤ a ∧ a < Addr.progress n + 32) ∨ ¬Addr.ofCardReport n a → m.get a = r.mem.get a := by
  intro m
  obtain ⟨hword, hfields, hout⟩ := Reports.takenIn_fresh_endWord h n true w
  exact ⟨hword, fun a ha => ha.elim (fun hin => hfields a hin.1 hin.2) (hout a)⟩

theorem Part.withdrawActive_ends {c : Context} (h : c.phase ≠ .running) (s : Part) (n : CardIx) :
    s.withdrawActive n c = s.endCard n c .withdrawn .withdrawnByOrder := by
  unfold Part.withdrawActive
  cases hphase : c.phase with
  | running => exact absurd hphase h
  | sleeping | waiting _ | retryWait => rfl

/-- The end of a card changes of the reports the memory, its done bit and CAUSE.DONE, and frees its context (R62, R137). -/
theorem Part.endCard_eq (s : Part) (n : CardIx) (c : Context) (state : ProgressState) (result : ResultCode) :
    s.endCard n c state result =
      { s with
        rep :=
          { s.rep with
            mem := (s.rep.endWord n (c.wordAs state result)).mem
            done := s.rep.done ||| (1#96 <<< n.val)
            cause := s.rep.cause ||| 0x01#8 }
        ctxs := s.ctxs.set n.val none n.isLt } := by
  rw [Part.endCard]
  simp only [Part.report, Part.setCtx, Reports.endWord_eq]

/-- A withdrawal ends a card at once where it is not both ACTIVE and RUNNING (R30, R63). -/
theorem Part.withdrawCard_ends {s : Part} {n : CardIx} {c : Context} (hctx : s.ctx n = some c)
    (h : c.active = false ∨ c.phase ≠ .running) : s.withdrawCard n = s.endCard n c .withdrawn .withdrawnByOrder := by
  rw [Part.withdrawCard, hctx]
  simp only
  cases hactive : c.active with
  | false => exact if_neg (by decide)
  | true => rw [if_pos rfl, Part.withdrawActive_ends (h.resolve_left (by simp [hactive]))]

/-- A withdrawal leaves a pending end on a card that is RUNNING (R63, R64). -/
theorem Part.withdrawCard_pends {s : Part} {n : CardIx} {c : Context} (hctx : s.ctx n = some c) (hactive : c.active = true)
    (hphase : c.phase = .running) :
    s.withdrawCard n =
      s.setCtx n
        (some
          { c with withdrawalPending := true
                   pendingEnd := if c.pendingEnd = .none then .withdrawn else c.pendingEnd }) := by
  rw [Part.withdrawCard, hctx]
  simp only [hactive, if_true, Part.withdrawActive, hphase]

/-- A card recorded as WAITING holds no context, and its progress word has the generation recorded (R27). -/
theorem Part.recorded_waiting {s : Part} {n : CardIx} {g : Byte} (hctx : s.ctx n = none) (h : s.recorded n = .waiting g) :
    progressGeneration s.rep.mem n = g := by
  rw [Part.recorded, hctx] at h
  simp only at h
  cases hstate : progressState s.rep.mem n with
  | waiting => rw [hstate] at h; exact Recorded.waiting.inj h
  | empty | accepted | active | ended | failed | withdrawn | rejected => rw [hstate] at h; cases h

/-- A withdrawal ends a WAITING card, and its reservation with it (R30). -/
theorem Part.withdrawCard_waiting {s : Part} {n : CardIx} {g : Byte} (hctx : s.ctx n = none) (h : s.recorded n = .waiting g) :
    s.withdrawCard n =
      { s with
        rep := s.rep.endWord n (bareWord g .withdrawn .withdrawnByOrder)
        waiting := s.waiting.set n.val none n.isLt } := by
  rw [Part.withdrawCard, hctx, ← Part.recorded_waiting hctx h]
  rfl

theorem Part.visitCard_withdraw {s : Part} {n : CardIx}
    (hdec : decideVisit (orderOf s.rep.mem n) (s.recorded n) = .withdraw) (dataHigh : Bool) :
    s.visitCard n dataHigh = s.withdrawCard n := by
  rw [Part.visitCard, hdec]

/-- Settles O25: the three withdrawals, by the context and its phase. -/
theorem visitWithdrawsCard : Obligations.VisitWithdrawsCard := by
  refine ⟨?_, ?_⟩
  · intro s n c dataHigh h hm hrun hpos hctl hctx hdec
    have hcard := Part.visitCard_withdraw hdec dataHigh
    refine ⟨fun hends => ?_, fun hactive hphase => ?_⟩
    · have hended := Part.endCard_cardEnded hm n c .withdrawn .withdrawnByOrder
      rw [Part.withdrawCard_ends hctx hends, Part.endCard_eq] at hcard
      rw [Part.endCard_eq] at hended
      exact ⟨_, _, exec_visit_goesOn h hrun hpos hctl hcard rfl rfl, hended,
        fun a ha => (Reports.endWord_mem hm n _).2 a (Or.inr ha)⟩
    · rw [Part.withdrawCard_pends hctx hactive hphase] at hcard
      exact exec_visit_goesOn h hrun hpos hctl hcard rfl rfl
  · intro s n g dataHigh h hm hrun hpos hctl hctx hrec hdec
    have hcard := Part.visitCard_withdraw (s := s.part) (by rw [hrec]; exact hdec) dataHigh
    rw [Part.withdrawCard_waiting hctx hrec] at hcard
    obtain ⟨hword, hout⟩ := Reports.endWord_mem hm n (bareWord g .withdrawn .withdrawnByOrder)
    refine ⟨(s.part.rep.endWord n (bareWord g .withdrawn .withdrawnByOrder)).mem,
      exec_visit_goesOn h hrun hpos hctl hcard rfl rfl, ?_, hword, hout⟩
    exact Part.cardEnded_of_endWord (s := { s.part with rep := s.part.rep.endWord n (bareWord g .withdrawn .withdrawnByOrder) })
      hm hctx rfl

/-! ### The end of a control card's execution (R42) -/

/-- The part after a visit whose control card has ended at once on the part `q`: the sweep goes on with the next card. -/
def Part.controlEnded (q : Part) (n : CardIx) (g : Byte) (state : ProgressState) (result : ResultCode) (next : CardIx) : Part :=
  { q with
    rep := (q.rep.fresh n false).endWord n (bareWord g state result)
    waiting := q.waiting.set n.val none n.isLt
    intake := { q.intake with pos := some next } }

/-- The end of a control card posted anew (R42). -/
theorem Part.endControl_eq (q : Part) (n : CardIx) (g : Byte) (state : ProgressState) (result : ResultCode) :
    q.endControl n g false state result =
      { q with
        rep := (q.rep.fresh n false).endWord n (bareWord g state result)
        waiting := q.waiting.set n.val none n.isLt } := by
  rw [Part.endControl, Part.freshFields_eq]
  simp only [Part.report, Part.setWaiting]

/-- A control card whose execution ends in RUNNING ends the visit to it. -/
theorem Part.endVisit_endControl {q : Part} (hrun : q.run.state = .running) (hctl : q.intake.control = none) {n : CardIx}
    (h : n.val + 1 < 96) (g : Byte) (state : ProgressState) (result : ResultCode) :
    (q.endControl n g false state result).endVisit n = q.controlEnded n g state result ⟨n.val + 1, h⟩ := by
  rw [Part.endControl_eq, Part.endVisit, if_pos (by simp only [hctl, Option.isNone_none]), Part.visitEnded,
    if_neg (by simp only [hrun]; decide), dif_pos h, Part.controlEnded]

theorem Part.controlEnded_ctx (q : Part) (n m : CardIx) (g : Byte) (state : ProgressState) (result : ResultCode) (next : CardIx) :
    (q.controlEnded n g state result next).ctx m = q.ctx m := by
  rw [Part.controlEnded, Part.ctx, Part.ctx]

theorem Part.controlEnded_rep (q : Part) (n : CardIx) (g : Byte) (state : ProgressState) (result : ResultCode) (next : CardIx) :
    (q.controlEnded n g state result next).rep = (q.rep.fresh n false).endWord n (bareWord g state result) := by
  rw [Part.controlEnded]

/-- A control card holds no context and shows its end. -/
theorem Part.controlEnded_cardEnded {q : Part} (hm : q.rep.mem.wf = true) {n : CardIx} (hctx : q.ctx n = none) (g : Byte)
    (state : ProgressState) (result : ResultCode) (next : CardIx) :
    (q.controlEnded n g state result next).cardEnded n g state result :=
  Part.cardEnded_of_endWord (Reports.wf_fresh hm n false) ((q.controlEnded_ctx n n g state result next).trans hctx)
    (q.controlEnded_rep n g state result next)

/-- The visit to a control card that ends leaves the ports as its execution left them, and the card shows its end. -/
theorem Part.endVisit_endControl_ports {q : Part} (hrun : q.run.state = .running) (hctl : q.intake.control = none)
    (hm : q.rep.mem.wf = true) {n : CardIx} (hctx : q.ctx n = none) (h : n.val + 1 < 96) (g : Byte) (state : ProgressState)
    (result : ResultCode) :
    let t := (q.endControl n g false state result).endVisit n
    t.two = q.two ∧ t.four = q.four ∧ t.cardEnded n g state result := by
  intro t
  have ht : t = q.controlEnded n g state result ⟨n.val + 1, h⟩ := Part.endVisit_endControl hrun hctl h g state result
  refine ⟨?_, ?_, ?_⟩
  · rw [ht, Part.controlEnded]
  · rw [ht, Part.controlEnded]
  · rw [ht]; exact Part.controlEnded_cardEnded hm hctx g state result _

theorem Part.visitCard_intake {s : Part} {n : CardIx} {g : Byte} {retried : Bool}
    (hdec : decideVisit (orderOf s.rep.mem n) (s.recorded n) = .intake g retried) (dataHigh : Bool) :
    s.visitCard n dataHigh = s.intakeCard n g retried dataHigh := by
  rw [Part.visitCard, hdec]

/-- The visit to a control card that ends at once on the part `q`. -/
theorem exec_visit_control {s : State} {n : CardIx} {g : Byte} {dataHigh : Bool} {q : Part} {state : ProgressState}
    {result : ResultCode} (h : n.val + 1 < 96) (hpos : s.part.intake.pos = some n) (hctl : s.part.intake.control = none)
    (hdec : decideVisit (orderOf s.part.rep.mem n) (s.part.recorded n) = .intake g false)
    (hcard : s.part.intakeCard n g false dataHigh = q.endControl n g false state result) (hqrun : q.run.state = .running)
    (hqin : q.intake.control = none) :
    exec (.visit dataHigh) s = .next { s with part := q.controlEnded n g state result ⟨n.val + 1, h⟩ } := by
  rw [exec_visit hpos hctl, Part.visitCard_intake hdec, hcard, Part.endVisit_endControl hqrun hqin h]

/-! ### SUBSTITUTE (R43, R84) -/

theorem Part.intakeCard_substitute {s : Part} {n : CardIx} {d : DevIx} {aux : Nat}
    (hval : (s.report (fun r => r.clearDone n)).validate n (readRequest s.rep.mem n) = .ok (.substitute d aux)) (g : Byte)
    (retried dataHigh : Bool) :
    s.intakeCard n g retried dataHigh =
      ((s.report (fun r => r.clearDone n)).substitute n g d aux).finish n g retried := by
  unfold Part.intakeCard
  simp only [hval]

/-- A device that is no primary of the map has its pair entered last. -/
theorem DeviceUnit.enter_eq {u : DeviceUnit} {d : DevIx} (h : u.standbyOf d = none) (b : DevIx) :
    u.enter d b = { u with subst := u.subst ++ [(d, b)] } := by
  have hfind : u.subst.find? (fun e => e.1 == d) = none := by simpa [DeviceUnit.standbyOf] using h
  have hany : ¬ u.subst.any (fun e => e.1 == d) = true := by
    rw [List.any_eq_true]
    rintro ⟨e, he, hd⟩
    exact List.find?_eq_none.mp hfind e he hd
  rw [DeviceUnit.enter, if_neg hany]

/-- The pair entered last is the one found. -/
theorem DeviceUnit.standbyOf_entered {u : DeviceUnit} {d : DevIx} (h : u.standbyOf d = none) (b : DevIx) :
    ({ u with subst := u.subst ++ [(d, b)] } : DeviceUnit).standbyOf d = some b := by
  have hfind : u.subst.find? (fun e => e.1 == d) = none := by simpa [DeviceUnit.standbyOf] using h
  simp [DeviceUnit.standbyOf, List.find?_append, hfind]

theorem Word.byte_two_ofBytes (b0 b1 b2 b3 : Byte) : (Word.ofBytes b0 b1 b2 b3).byte 2 = b2 := by
  apply BitVec.eq_of_getLsbD_eq
  intro i hi
  have hsecond : ¬ 16 + i < 8 := by omega
  have hthird : ¬ 16 + i - 8 < 8 := by omega
  have hin : 16 + i - 8 - 8 = i := by omega
  rw [Word.byte, Word.ofBytes, BitVec.getLsbD_extractLsb', BitVec.getLsbD_append, BitVec.getLsbD_append,
    BitVec.getLsbD_append]
  simp [hi, hsecond, hthird, hin]

/-- No device has the index that stands for none. -/
theorem byteOf_device_ne (b : DevIx) : byteOf b.val ≠ 0xFF#8 := by
  have hb : b.val < 64 := b.isLt
  intro h
  have hnat : b.val % 256 = 255 := by simpa [byteOf] using congrArg BitVec.toNat h
  omega

/-- A standby entered where there was none changes the status word (R86). -/
theorem DeviceUnit.statusWord_ne {u u' : DeviceUnit} {d b : DevIx} (hnone : u.standbyOf d = none) (hsome : u'.standbyOf d = some b) :
    u'.statusWord d ≠ u.statusWord d := by
  intro h
  have hbyte := congrArg (fun w => Word.byte w 2) h
  simp only [DeviceUnit.statusWord, Word.byte_two_ofBytes, hnone, hsome] at hbyte
  exact byteOf_device_ne b hbyte

/-- A usable standby and room in the map: the pair is entered, and the card ends OK (R43, R84). -/
theorem Part.substitute_entered {s : Part} {d b : DevIx} (husable : s.usableStandby b = true) (hne : b ≠ d)
    (hfence : s.dev.isFenced d = false) (hnone : s.dev.standbyOf d = none) (hroom : s.dev.subst.length < 8) (n : CardIx) (g : Byte) :
    s.substitute n g d b.val =
      { part := s.changeDevice { s.dev with subst := s.dev.subst ++ [(d, b)] } d, state := .ended, result := .ok } := by
  rw [Part.substitute, devIx?_of_lt b.isLt]
  simp only [Fin.eta]
  rw [if_neg (by simp [husable, hne]), if_pos (Or.inr hroom), DeviceUnit.enter_eq hnone, hfence]
  rfl

/-- An unusable standby: the card fails, and nothing is entered (R43). -/
theorem Part.substitute_invalid {s : Part} {d : DevIx} {aux : Nat}
    (h : ∀ b : DevIx, b.val = aux → b = d ∨ s.usableStandby b = false) (n : CardIx) (g : Byte) :
    s.substitute n g d aux = { part := s, state := .failed, result := .deviceInvalid } := by
  unfold Part.substitute
  by_cases haux : aux < 64
  · have hbad : (⟨aux, haux⟩ : DevIx) = d ∨ (!s.usableStandby ⟨aux, haux⟩) = true :=
      (h ⟨aux, haux⟩ rfl).imp_right (fun hu => by simp [hu])
    rw [devIx?_of_lt haux]
    exact if_pos hbad
  · rw [devIx?_of_not_lt haux]

/-! ### RESTORE (R44, R85) -/

theorem Part.intakeCard_restore {s : Part} {n : CardIx} {d : DevIx}
    (hval : (s.report (fun r => r.clearDone n)).validate n (readRequest s.rep.mem n) = .ok (.restore d)) (g : Byte)
    (retried dataHigh : Bool) :
    s.intakeCard n g retried dataHigh = ((s.report (fun r => r.clearDone n)).restore d).finish n g retried := by
  unfold Part.intakeCard
  simp only [hval]

/-- Where none waits that is to be resolved again, nothing changes. -/
theorem Part.reresolveWhere_none {s : Part} {p : Context → Bool}
    (h : ∀ n c, s.ctx n = some c → p c = true → c.isWaiting = false) : s.reresolveWhere p = s := by
  rw [Part.reresolveWhere, List.filter_eq_nil_iff.mpr, List.foldl_nil]
  intro n _
  cases hctx : s.ctx n with
  | none => simp
  | some c =>
    have hnot := h n c hctx
    cases hp : p c <;> simp [hp, hnot]

/-- A device with something to restore, for which no card's work waits (R85). -/
theorem Part.restore_restored {s : Part} {d : DevIx} (hrest : s.dev.restorable d = true)
    (hwait : ∀ n c, s.ctx n = some c → c.device = d → c.isWaiting = false) :
    s.restore d =
      { part :=
          s.changeDevice
            { recs := s.dev.recs.set d.val { health := .healthy, faults := 0, guard := none } d.isLt
              subst := s.dev.subst.filter (fun e => !(e.1 == d)) } d
        state := .ended, result := .ok } := by
  have hctx : ∀ (u : DeviceUnit) (n : CardIx), (s.changeDevice u d).ctx n = s.ctx n := fun u n => by
    rw [Part.changeDevice_eq]; rfl
  rw [Part.restore, if_pos hrest]
  simp only
  rw [Part.reresolveWhere_none (fun n c hc hd => hwait n c ((hctx _ n).symm.trans hc) (by simpa using hd))]
  rfl

theorem Part.restore_nothing {s : Part} {d : DevIx} (hrest : s.dev.restorable d = false) :
    s.restore d = { part := s, state := .ended, result := .nothingToDo } := by
  rw [Part.restore, if_neg (by simp [hrest])]

/-- Settles O26: the answer of each execution, and the end of its card. -/
theorem controlCardsChangeDevices : Obligations.ControlCardsChangeDevices := by
  intro s n g d dataHigh h hm hrun hpos hctl hctx hdec p after
  have hpm : p.rep.mem.wf = true := Reports.wf_clearDone hm n
  have hanswer : ∀ (u : DeviceUnit) (r : Reports) (state : ProgressState) (result : ResultCode), r.mem.wf = true →
      s.part.intakeCard n g false dataHigh =
        ({ s.part with dev := u, rep := r } : Part).endControl n g false state result →
      exec (.visit dataHigh) s = .next { s with part := after u ((r.fresh n false).endWord n (bareWord g state result)) } ∧
        (after u ((r.fresh n false).endWord n (bareWord g state result))).cardEnded n g state result :=
    fun u r state result hr hcard =>
      ⟨exec_visit_control (q := { s.part with dev := u, rep := r }) h hpos hctl hdec hcard hrun hctl,
        Part.controlEnded_cardEnded (q := { s.part with dev := u, rep := r }) hr hctx g state result ⟨n.val + 1, h⟩⟩
  refine ⟨?_, ?_, ?_, ?_⟩
  · intro b hval husable hne hfence hnone hroom u
    have hcard := Part.intakeCard_substitute hval g false dataHigh
    rw [Part.substitute_entered husable hne hfence hnone hroom, Part.changeDevice_eq] at hcard
    have hwf := Memory.wf_withStatus hpm p.dev u d
    obtain ⟨hexec, hended⟩ := hanswer u { p.rep with mem := p.rep.mem.withStatus p.dev u d } .ended .ok hwf hcard
    refine ⟨_, hexec, hended, ?_⟩
    have hlow := Addr.doneWord_lt_status n d
    have hhigh := Addr.status_lt_progress d n
    have hchanged : u.statusWord d ≠ p.dev.statusWord d :=
      DeviceUnit.statusWord_ne hnone (DeviceUnit.standbyOf_entered hnone b)
    have hstatus := (Memory.word_withStatus hpm p.dev u d).trans (if_neg hchanged)
    refine Eq.trans (Memory.word_congr (fun a h1 h2 => ?_)) hstatus
    exact (Reports.takenIn_fresh_endWord (r := { p.rep with mem := p.rep.mem.withStatus p.dev u d }) hwf n false _).2.2 a
      (by unfold Addr.ofCardReport; omega)
  · intro aux hval hbad
    have hcard := Part.intakeCard_substitute hval g false dataHigh
    rw [Part.substitute_invalid hbad] at hcard
    exact ⟨_, hanswer s.part.dev p.rep .failed .deviceInvalid hpm hcard⟩
  · intro hval hrest hwait u
    have hcard := Part.intakeCard_restore hval g false dataHigh
    rw [Part.restore_restored (s := p) hrest hwait, Part.changeDevice_eq] at hcard
    exact ⟨_, hanswer u { p.rep with mem := p.rep.mem.withStatus p.dev u d } .ended .ok
      (Memory.wf_withStatus hpm p.dev u d) hcard⟩
  · intro hval hrest
    have hcard := Part.intakeCard_restore hval g false dataHigh
    rw [Part.restore_nothing (s := p) hrest] at hcard
    exact ⟨_, hanswer s.part.dev p.rep .ended .nothingToDo hpm hcard⟩

/-! ### PORT_CLEAR (R45, R107, R122) -/

/-- A port is a two-wire or a four-wire one. -/
theorem twoPort_or_fourPort (port : PortIx) : (∃ q, port = twoPort q) ∨ ∃ q, port = fourPort q := by
  by_cases h : port.val < 2
  · exact Or.inl ⟨⟨port.val, h⟩, rfl⟩
  · refine Or.inr ⟨⟨port.val - 2, by omega⟩, Fin.ext ?_⟩
    simp only [fourPort]; omega

theorem Part.portFenced_two (s : Part) (q : TwoIx) : s.portFenced (twoPort q) = (s.twoAt q).isFenced := dif_pos q.isLt

theorem Part.portFenced_four (s : Part) (q : FourIx) : s.portFenced (fourPort q) = (s.fourAt q).isFenced := by
  have hnot : ¬ (fourPort q).val < 2 := by simp only [fourPort]; omega
  exact dif_neg hnot

theorem Part.setFour_fourAt (s : Part) (p q : FourIx) (t : FourWire) :
    (s.setFour p t).fourAt q = if q = p then t else s.fourAt q := by
  unfold Part.fourAt Part.setFour
  simp only [Fin.getElem_fin, Vector.getElem_set]
  by_cases h : q = p
  · subst h; simp
  · have hv : p.val ≠ q.val := fun he => h (Fin.ext he.symm)
    simp [h, hv]

/-- A port that takes up IDLE or HELD is not fenced. -/
theorem Part.twoIdle_isFenced (s : Part) (t : TwoWire) : (s.twoIdle t).isFenced = false := by
  unfold Part.twoIdle
  split <;> rfl

theorem Part.fourIdle_of_not_sense {t : FourWire} (h : t.sense = false) (s : Part) :
    s.fourIdle t = { t with state := .idle, holdTimer := none } := by
  rw [Part.fourIdle, if_neg (by simp [h])]

theorem Part.intakeCard_portClear {s : Part} {n : CardIx} {port : PortIx}
    (hval : (s.report (fun r => r.clearDone n)).validate n (readRequest s.rep.mem n) = .ok (.portClear port)) (g : Byte)
    (retried dataHigh : Bool) :
    s.intakeCard n g retried dataHigh = (s.report (fun r => r.clearDone n)).portClear n g retried port dataHigh := by
  unfold Part.intakeCard
  simp only [hval]

theorem Part.portClear_two (s : Part) (n : CardIx) (g : Byte) (retried : Bool) (q : TwoIx) (dataHigh : Bool) :
    s.portClear n g retried (twoPort q) dataHigh = s.clearTwo n g retried q dataHigh := dif_pos q.isLt

theorem Part.portClear_four (s : Part) (n : CardIx) (g : Byte) (retried : Bool) (q : FourIx) (dataHigh : Bool) :
    s.portClear n g retried (fourPort q) dataHigh = (s.clearFour q).finish n g retried := by
  have hnot : ¬ (fourPort q).val < 2 := by simp only [fourPort]; omega
  exact dif_neg hnot

/-- A port that is not fenced gives its card nothing to do (R45). -/
theorem Part.portClear_notFenced {s : Part} {port : PortIx} (h : s.portFenced port = false) (n : CardIx) (g : Byte)
    (retried dataHigh : Bool) :
    s.portClear n g retried port dataHigh = s.endControl n g retried .ended .nothingToDo := by
  rcases twoPort_or_fourPort port with ⟨q, rfl⟩ | ⟨q, rfl⟩
  · rw [Part.portFenced_two] at h
    rw [Part.portClear_two, Part.clearTwo, h]
    rfl
  · rw [Part.portFenced_four] at h
    rw [Part.portClear_four, Part.clearFour, h]
    rfl

/-- A fenced two-wire port whose data line reads high leaves FENCED (R45, R107). -/
theorem Part.portClear_twoHigh {s : Part} {q : TwoIx} (h : (s.twoAt q).state = .fenced) (n : CardIx) (g : Byte) (retried : Bool) :
    s.portClear n g retried (twoPort q) true = (s.setTwo q (s.twoIdle (s.twoAt q))).endControl n g retried .ended .ok := by
  have hfence : (s.twoAt q).isFenced = true := by rw [TwoWire.isFenced, h]
  rw [Part.portClear_two, Part.clearTwo, hfence]
  rfl

/-- A fenced two-wire port whose data line reads low recovers (R107). -/
theorem Part.portClear_twoLow {s : Part} {q : TwoIx} (h : (s.twoAt q).state = .fenced) (n : CardIx) (g : Byte) (retried : Bool) :
    s.portClear n g retried (twoPort q) false = s.beginClear n g q := by
  have hfence : (s.twoAt q).isFenced = true := by rw [TwoWire.isFenced, h]
  rw [Part.portClear_two, Part.clearTwo, hfence]
  rfl

/-- A fenced four-wire port leaves FENCED where its SENSE is deasserted (R122). -/
theorem Part.portClear_fourFree {s : Part} {q : FourIx} (h : (s.fourAt q).state = .fenced) (hsense : (s.fourAt q).sense = false)
    (n : CardIx) (g : Byte) (retried dataHigh : Bool) :
    s.portClear n g retried (fourPort q) dataHigh =
      (s.setFour q (s.fourIdle (s.fourAt q))).endControl n g retried .ended .ok := by
  have hfence : (s.fourAt q).isFenced = true := by rw [FourWire.isFenced, h]
  rw [Part.portClear_four, Part.clearFour, hfence, hsense]
  rfl

/-- A fenced four-wire port whose SENSE is asserted stays FENCED (R122). -/
theorem Part.portClear_fourHeld {s : Part} {q : FourIx} (h : (s.fourAt q).state = .fenced) (hsense : (s.fourAt q).sense = true)
    (n : CardIx) (g : Byte) (retried dataHigh : Bool) :
    s.portClear n g retried (fourPort q) dataHigh = s.endControl n g retried .failed .portFenced := by
  have hfence : (s.fourAt q).isFenced = true := by rw [FourWire.isFenced, h]
  rw [Part.portClear_four, Part.clearFour, hfence, hsense]
  rfl

/-- The execution of a PORT_CLEAR that begins a recovery goes on: the visit does not end (R42). -/
theorem Part.endVisit_beginClear (s : Part) (n : CardIx) (g : Byte) (q : TwoIx) :
    (s.beginClear n g q).endVisit n = s.beginClear n g q := by
  rw [Part.endVisit, if_neg]
  exact Bool.false_ne_true

/-- The port of a PORT_CLEAR in its recovery. -/
theorem Part.beginClear_twoAt (s : Part) (n : CardIx) (g : Byte) (q : TwoIx) :
    (s.beginClear n g q).twoAt q =
      { s.twoAt q with
        state := .recovering { cause := .portClear, since := s.now, limit := s.holdLimitUs, changes := [] }, wire := [] } := by
  refine (Part.setTwo_twoAt s q q _).trans (if_pos rfl)

/-- Settles O27: the answer by the kind of port, its fence and its line check. -/
theorem portClearCardClearsFence : Obligations.PortClearCardClearsFence := by
  intro s n g port dataHigh h hm hrun hpos hctl hctx hdec hval
  have hcard := Part.intakeCard_portClear hval g false dataHigh
  generalize hp : s.part.report (fun r => r.clearDone n) = p at hcard
  have hpm : p.rep.mem.wf = true := by rw [← hp]; exact Reports.wf_clearDone hm n
  have hprun : p.run.state = .running := by rw [← hp]; exact hrun
  have hpctl : p.intake.control = none := by rw [← hp]; exact hctl
  have hppos : p.intake.pos = some n := by rw [← hp]; exact hpos
  have hpctx : p.ctx n = none := by rw [← hp]; exact hctx
  have htwo : p.two = s.part.two := by rw [← hp, Part.report_two]
  have hfour : p.four = s.part.four := by rw [← hp, Part.report_four]
  have htwoAt : ∀ q, p.twoAt q = s.part.twoAt q := fun q => by unfold Part.twoAt; rw [htwo]
  have hfourAt : ∀ q, p.fourAt q = s.part.fourAt q := fun q => by unfold Part.fourAt; rw [hfour]
  have hvisit : exec (.visit dataHigh) s = .next { s with part := (p.portClear n g false port dataHigh).endVisit n } := by
    rw [exec_visit hpos hctl, Part.visitCard_intake hdec, hcard]
  rw [hvisit]
  have hends := fun state result => Part.endVisit_endControl_ports hprun hpctl hpm hpctx h g state result
  refine ⟨_, rfl, fun hfence => ?_, ?_, ?_⟩
  · have hpfence : p.portFenced port = false := by rw [← hp]; exact hfence
    rw [Part.portClear_notFenced hpfence, ← htwo, ← hfour]
    exact hends .ended .nothingToDo
  · rintro q rfl hstate
    rw [← htwoAt] at hstate
    refine ⟨?_, ?_⟩
    · rintro rfl
      rw [Part.portClear_twoHigh hstate]
      obtain ⟨htwo', _, hended⟩ := Part.endVisit_endControl_ports (q := p.setTwo q (p.twoIdle (p.twoAt q))) hprun hpctl hpm hpctx
        h g .ended .ok
      refine ⟨?_, hended⟩
      rw [Part.portFenced_two, Part.twoAt, htwo']
      change ((p.setTwo q (p.twoIdle (p.twoAt q))).twoAt q).isFenced = false
      rw [Part.setTwo_twoAt, if_pos rfl, Part.twoIdle_isFenced]
    · rintro rfl
      rw [Part.portClear_twoLow hstate, Part.endVisit_beginClear, Part.portFenced_two, Part.beginClear_twoAt]
      refine ⟨rfl, hppos, rfl, ?_⟩
      rw [← hp]
      rfl
  · rintro q rfl hstate
    rw [← hfourAt] at hstate ⊢
    refine ⟨fun hsense => ?_, fun hsense => ?_⟩
    · rw [Part.portClear_fourFree hstate hsense]
      obtain ⟨_, hfour', hended⟩ := Part.endVisit_endControl_ports (q := p.setFour q (p.fourIdle (p.fourAt q))) hprun hpctl hpm
        hpctx h g .ended .ok
      refine ⟨?_, hended⟩
      rw [Part.fourAt, hfour']
      change ((p.setFour q (p.fourIdle (p.fourAt q))).fourAt q).state = .idle
      rw [Part.setFour_fourAt, if_pos rfl, Part.fourIdle_of_not_sense hsense]
    · rw [Part.portClear_fourHeld hstate hsense]
      obtain ⟨_, hfour', hended⟩ := hends .failed .portFenced
      refine ⟨?_, hended⟩
      rw [Part.fourAt, hfour']
      exact hstate

end Sys2Proof.Machine
end

section
/-! The fences of a failed recovery and of an expired hold timer (R26, R65, R100, R103, R106, R121). -/

namespace Sys2Proof.Machine

/-! ### Fences with an empty ready list (R103, R106, R121) -/

/-- Nothing fails on an empty ready list. -/
theorem Part.failReadyList_empty {s : Part} {p : PortIx} (h : s.readyCards p = []) : s.failReadyList p = s := by
  rw [Part.failReadyList, h, List.foldl_nil]

/-- The ready lists are those of the contexts. -/
theorem Part.readyCards_congr {s t : Part} (h : t.ctxs = s.ctxs) (p : PortIx) : t.readyCards p = s.readyCards p := by
  unfold Part.readyCards
  simp only [Part.ctx_congr h]

/-- A fence of a port with an empty ready list: CAUSE.PORT is set, and nothing else changes. -/
theorem Part.fenceEffects_empty {s : Part} {p : PortIx} (h : s.readyCards p = []) : s.fenceEffects p = s.tell .port := by
  rw [Part.fenceEffects, Part.failReadyList_empty ((Part.readyCards_congr (s.tell_ctxs .port) p).trans h)]

/-! ### A failed recovery (R26, R103) -/

/-- The limit of a wait that began before any limit noted since is that of the recovery's beginning (R26). -/
theorem Recovery.limitAt_of_none {r : Recovery} {t : Time} (h : ∀ x ∈ r.changes, Time.atOrAfter t x.1 = false) :
    r.limitAt t = r.limit := by
  have hfind : r.changes.find? (fun x => Time.atOrAfter t x.1) = none :=
    List.find?_eq_none.mpr (fun x hx => by simp [h x hx])
  rw [Recovery.limitAt, hfind]

/-- The limit of a wait is the last one noted at or before it (R26). -/
theorem Recovery.limitAt_of_last {r : Recovery} {t : Time} {later earlier : List (Time × Nat)} {x : Time × Nat}
    (hchanges : r.changes = later ++ x :: earlier) (hlater : ∀ y ∈ later, Time.atOrAfter t y.1 = false)
    (hx : Time.atOrAfter t x.1 = true) : r.limitAt t = x.2 := by
  have hfind : later.find? (fun x => Time.atOrAfter t x.1) = none :=
    List.find?_eq_none.mpr (fun y hy => by simp [hlater y hy])
  rw [Recovery.limitAt, hchanges, List.find?_append, hfind]
  simp [hx]

/-- Attach goes on while another line check is running (R172). -/
theorem Part.tryFinishAttach_of_checking {s : Part} {q : TwoIx} (h : (s.twoAt q).inAttachCheck = true) :
    s.tryFinishAttach = s := by
  have hany : s.two.toList.any TwoWire.inAttachCheck = true :=
    List.any_eq_true.mpr ⟨s.twoAt q, by simp [Part.twoAt], h⟩
  rw [Part.tryFinishAttach, if_neg (by simp [hany])]

/-- The port as a failed recovery leaves it: FENCED, its pulses driven and its lines released. -/
def TwoWire.stuck (t : TwoWire) (now : Time) (reason : StuckBy) : TwoWire :=
  { t.fence with measureFrom := now, wire := t.wire ++ stuckPulses reason ++ [.released] }

/-- The part with a port fenced after a failed recovery and its PORT_STUCK record asked for. -/
def Part.stuckFenced (s : Part) (p : TwoIx) (reason : StuckBy) (dataHigh : Bool) : Part :=
  (s.setTwo p ((s.twoAt p).stuck s.now reason)).request (portRecord .portStuck s.now (twoPort p) (flagBit dataHigh 1))

/-- A recovery of attach that fails, the other line check still running and the ready list empty. -/
theorem Part.portStuck_attach {s : Part} {p q : TwoIx} {r : Recovery} {reason : StuckBy} {dataHigh : Bool} (hq : q ≠ p)
    (hstate : (s.twoAt p).state = .recovering r) (hcause : r.cause = .attach) (hother : (s.twoAt q).inAttachCheck = true)
    (hready : s.readyCards (twoPort p) = []) (hfails : s.recoveryFails r dataHigh reason = true) :
    s.portStuck p reason dataHigh = (s.stuckFenced p reason dataHigh).tell .port := by
  have hrec : (s.twoAt p).recovery = some r := by rw [TwoWire.recovery, hstate]
  have hlist : (s.stuckFenced p reason dataHigh).readyCards (twoPort p) = [] := (Part.readyCards_congr rfl _).trans hready
  have hfenced : s.portStuck p reason dataHigh =
      ((s.stuckFenced p reason dataHigh).fenceEffects (twoPort p)).tryFinishAttach := by
    rw [Part.portStuck, hrec]
    simp only [hcause]
    rw [if_pos hfails]
    rfl
  have hchecking : (((s.stuckFenced p reason dataHigh).tell .port).twoAt q).inAttachCheck = true := by
    change ((s.setTwo p ((s.twoAt p).stuck s.now reason)).twoAt q).inAttachCheck = true
    rw [Part.setTwo_twoAt, if_neg hq]
    exact hother
  rw [hfenced, Part.fenceEffects_empty hlist, Part.tryFinishAttach_of_checking hchecking]

/-! ### An expired hold timer (R100, R106, R121) -/

theorem Part.expired_some (s : Part) {timer : Option Time} {e : Time} (htimer : timer = some e)
    (hdue : Time.atOrAfter s.time.count e = true) : s.expired timer = true := by
  rw [htimer]; exact hdue

/-- The part with a HELD port fenced and its BUS_HELD record asked for. -/
def Part.heldFenced (s : Part) (p : TwoIx) (levels : BitVec 2) : Part :=
  (s.setTwo p (s.twoAt p).fence).request (portRecord .busHeld s.now (twoPort p) (twoLevels levels))

/-- The hold timer of a HELD port expires (R100, R106). -/
theorem Part.holdExpired_held {s : Part} {p : TwoIx} {e : Time} (hstate : (s.twoAt p).state = .held)
    (htimer : (s.twoAt p).holdTimer = some e) (hdue : Time.atOrAfter s.time.count e = true) (levels : BitVec 2) :
    s.holdExpired p levels = (s.heldFenced p levels).fenceEffects (twoPort p) := by
  rw [Part.holdExpired]
  simp only [hstate, s.expired_some htimer hdue]
  rfl

/-- The part with a YIELDED port fenced and its BUS_HELD record asked for. -/
def Part.yieldedFenced (s : Part) (q : FourIx) (levels : BitVec 3) : Part :=
  (s.setFour q { s.fourAt q with state := .fenced, holdTimer := none }).request
    (portRecord .busHeld s.now (fourPort q) (fourLevels levels (s.fourAt q).sense))

/-- The hold timer of a YIELDED port expires (R121). -/
theorem Part.senseHoldExpired_yielded {s : Part} {q : FourIx} {e : Time} (hstate : (s.fourAt q).state = .yielded)
    (htimer : (s.fourAt q).holdTimer = some e) (hdue : Time.atOrAfter s.time.count e = true) (levels : BitVec 3) :
    s.senseHoldExpired q levels = (s.yieldedFenced q levels).fenceEffects (fourPort q) := by
  rw [Part.senseHoldExpired]
  simp only [hstate, s.expired_some htimer hdue]
  rfl

/-! ### A ONCE card alone on the ready list of a port that is fenced (R65) -/

/-- A request finds room in a queue that is not full, and writes no byte (R141). -/
theorem Reports.request_mem_of_room {r : Reports} (h : r.queue.length < 16) (state : RunState) (level : LogLevel)
    (f : FaultRecord) : (r.request state level f).mem = r.mem := by
  unfold Reports.request
  split
  · rfl
  · split
    · rfl
    · rfl

/-- A context that has counted a failure without an attempt (R16). -/
def Context.failedUntried (c : Context) : Context := { c with run := c.run + 1#32, failed := c.failed + 1#32 }

/-- The part with the run and failed counters of such a failure written (R135). -/
def Part.untriedCounted (s : Part) (n : CardIx) (c : Context) : Part :=
  (s.writeProgressWord n 8 c.failedUntried.run).writeProgressWord n 16 c.failedUntried.failed

/-- A ONCE card that fails before any attempt ends FAILED with the failure's code (R57, R65). -/
theorem Part.endInstance_untried {c : Context} (hkind : c.kind = .once) (hend : c.pendingEnd = .none) (hlast : c.last = none)
    {code : ResultCode} (hcode : code ≠ .ok) (s : Part) (n : CardIx) (f : Fresh) :
    s.endInstance n c code [] f = ((s.untriedCounted n c).endCard n c.failedUntried .failed code, .settle f) := by
  have hsample : s.resultSample n c code [] = { part := s, ctx := c, invalid := false } := by
    unfold Part.resultSample; rw [hlast]
  have hfailed : (code != .ok) = true := by simpa using hcode
  have hcounted : c.counted true = c.failedUntried := by
    simp only [Context.counted, Context.failedUntried, hlast, if_true]
  have hwritten : s.writeCounters n c.failedUntried true = s.untriedCounted n c := by
    have hnone : c.failedUntried.last = none := hlast
    unfold Part.writeCounters
    rw [hnone]
    rfl
  have hpending : c.failedUntried.pendingEnd = .none := hend
  have honce : c.failedUntried.kind = .once := hkind
  rw [Part.endInstance, hsample]
  simp only [hfailed, hcounted, hwritten]
  rw [Part.afterEnd, hpending]
  simp only [PendingEnd.asEnd, honce, hcode, if_false, Part.endCardWork, Bool.false_eq_true]

/-- The ready list of one such card. -/
theorem Part.failReadyList_untried {s : Part} {p : PortIx} {n : CardIx} {c : Context} (hready : s.readyCards p = [n])
    (hctx : s.ctx n = some c) (hkind : c.kind = .once) (hend : c.pendingEnd = .none) (hlast : c.last = none) :
    s.failReadyList p = (s.untriedCounted n c).endCard n c.failedUntried .failed .portFenced := by
  rw [Part.failReadyList, hready, List.foldl_cons, List.foldl_nil, hctx]
  simp only
  rw [Part.endInstance_untried hkind hend hlast (by decide), Part.finish_free (Part.endCard_ctx _ _ _ _ _)]

theorem Part.untriedCounted_ctx (s : Part) (n m : CardIx) (c : Context) : (s.untriedCounted n c).ctx m = s.ctx m := by
  simp only [Part.untriedCounted, Part.ctx, Part.writeProgressWord_ctxs]

theorem Part.endCard_ctx_other {n m : CardIx} (h : m ≠ n) (s : Part) (c : Context) (state : ProgressState) (result : ResultCode) :
    (s.endCard n c state result).ctx m = s.ctx m := by
  rw [Part.endCard, Part.setCtx_ctx_other _ _ h, Part.ctx, Part.report_ctxs, Part.ctx]

theorem Part.untriedCounted_latch (s : Part) (n : CardIx) (c : Context) (l : Latch) :
    (s.untriedCounted n c).rep.latch l = s.rep.latch l := by
  simp only [Part.untriedCounted, Part.writeProgressWord_rep, Reports.latch]

/-- The counters lie in the card's progress half. -/
theorem Part.untriedCounted_mem {s : Part} (hm : s.rep.mem.wf = true) (n : CardIx) (c : Context) :
    (s.untriedCounted n c).rep.mem.wf = true ∧
      ∀ a : Nat, ¬Addr.ofCardReport n a → (s.untriedCounted n c).rep.mem.get a = s.rep.mem.get a := by
  have hwf := Memory.wf_setWord hm (Addr.progress n + 8) c.failedUntried.run
  refine ⟨Memory.wf_setWord hwf _ _, fun a ha => ?_⟩
  have hout : ¬(Addr.progress n ≤ a ∧ a < Addr.progress n + 32) := fun h => ha (Or.inl h)
  exact (Memory.get_setWord_outside hwf _ (by omega)).trans (Memory.get_setWord_outside hm _ (by omega))

theorem Part.mem_readyCards {s : Part} {p : PortIx} {m : CardIx} :
    m ∈ s.readyCards p ↔ ∃ c, s.ctx m = some c ∧ c.onList p = true := by
  simp only [Part.readyCards, allCards, List.mem_filter, List.mem_finRange, true_and]
  cases s.ctx m <;> simp

/-- A ready list of one card is empty once that card holds no context and the others are as they were. -/
theorem Part.readyCards_freed {s t : Part} {p : PortIx} {n : CardIx} (hready : s.readyCards p = [n]) (hfree : t.ctx n = none)
    (hother : ∀ m, m ≠ n → t.ctx m = s.ctx m) : t.readyCards p = [] := by
  refine List.eq_nil_iff_forall_not_mem.mpr (fun m hm => ?_)
  obtain ⟨c, hc, hlist⟩ := Part.mem_readyCards.mp hm
  by_cases hmn : m = n
  · rw [hmn, hfree] at hc; cases hc
  · have hmem : m ∈ s.readyCards p := Part.mem_readyCards.mpr ⟨c, (hother m hmn).symm.trans hc, hlist⟩
    rw [hready] at hmem
    exact hmn (List.mem_singleton.mp hmem)

theorem Reports.latch_setLatch_self (r : Reports) (l : Latch) : (r.setLatch l).latch l = true := by
  cases l <;> simp [Reports.setLatch, Reports.latch, Latch.mask, Latch.bit]

/-- A card's end clears no latch. -/
theorem Reports.latch_endWord {r : Reports} {l : Latch} (h : r.latch l = true) (n : CardIx) (w : Word) :
    (r.endWord n w).latch l = true := by
  unfold Reports.latch at h
  simp [Reports.latch, Reports.endWord_eq, h]

/-- Settles O46: the fence of a failed recovery at attach, the limits of its waits, and the fences of expired hold timers. -/
theorem failedRecoveryOrHoldExpiryFencesPort : Obligations.FailedRecoveryOrHoldExpiryFencesPort := by
  refine ⟨?_, fun r t => ⟨Recovery.limitAt_of_none, fun _ _ _ => Recovery.limitAt_of_last⟩, ?_, ?_, ?_⟩
  · intro s p q since limit changes reason dataHigh hq r hstate hother hready hreason driven port
    have hfails : s.part.recoveryFails r dataHigh reason = true := by
      cases reason with
      | firstWait low =>
        obtain ⟨hsince, hns⟩ := hreason
        simp only [Part.recoveryFails, measureReaches, r, hsince, hns, beq_self_eq_true, decide_true, Bool.and_self]
      | pulseWait pulses low =>
        obtain ⟨hpulses, hfrom, hto, hns⟩ := hreason
        have hnow : Time.atOrAfter s.part.now low.since = true := hto
        simp only [Part.recoveryFails, r, hpulses, hfrom, hnow, hns, decide_true, Bool.and_self]
      | dataLow => rw [Part.recoveryFails, hreason]; rfl
    have hdriven : stuckPulses reason = driven := by cases reason <;> rfl
    have hport : (s.part.twoAt p).stuck s.part.now reason = port := by rw [TwoWire.stuck, hdriven]; rfl
    have hlevels : flagBit dataHigh 1 = if dataHigh then 0x02#8 else 0x00#8 := by cases dataHigh <;> rfl
    change Host.Outcome.next { s with part := s.part.portStuck p reason dataHigh } = _
    rw [Part.portStuck_attach hq hstate rfl hother hready hfails, Part.stuckFenced, hport, hlevels]
    rfl
  · intro s p levels e hstate htimer hdue hready
    change Host.Outcome.next { s with part := s.part.holdExpired p levels } = _
    have hlist : (s.part.heldFenced p levels).readyCards (twoPort p) = [] := (Part.readyCards_congr rfl _).trans hready
    rw [Part.holdExpired_held hstate htimer hdue, Part.fenceEffects_empty hlist]
    rfl
  · intro s q levels e hstate htimer hdue hready
    have hsense : flagBit (s.part.fourAt q).sense 3 = if (s.part.fourAt q).sense then 0x08#8 else 0x00#8 := by
      cases (s.part.fourAt q).sense <;> rfl
    change Host.Outcome.next { s with part := s.part.senseHoldExpired q levels } = _
    have hlist : (s.part.yieldedFenced q levels).readyCards (fourPort q) = [] := (Part.readyCards_congr rfl _).trans hready
    rw [Part.senseHoldExpired_yielded hstate htimer hdue, Part.fenceEffects_empty hlist, Part.yieldedFenced, fourLevels, hsense]
    rfl
  · intro s p levels e n c hm hstate htimer hdue hready hctx hkind hend hlast hroom
    generalize hf : (s.part.heldFenced p levels).tell .port = f
    have hfctxs : f.ctxs = s.part.ctxs := by rw [← hf]; rfl
    have hfmem : f.rep.mem = s.part.rep.mem := by rw [← hf]; exact Reports.request_mem_of_room hroom _ _ _
    have hfwf : f.rep.mem.wf = true := by rw [hfmem]; exact hm
    have hfctx : ∀ m, f.ctx m = s.part.ctx m := Part.ctx_congr hfctxs
    have hfready : f.readyCards (twoPort p) = [n] := (Part.readyCards_congr hfctxs _).trans hready
    have hpart : s.part.holdExpired p levels = (f.untriedCounted n c).endCard n c.failedUntried .failed .portFenced := by
      rw [Part.holdExpired_held hstate htimer hdue, Part.fenceEffects, hf,
        Part.failReadyList_untried hfready ((hfctx n).trans hctx) hkind hend hlast]
    obtain ⟨hwf, hmem⟩ := Part.untriedCounted_mem hfwf n c
    have hother : ∀ m, m ≠ n → (s.part.holdExpired p levels).ctx m = s.part.ctx m := fun m hne => by
      rw [hpart, Part.endCard_ctx_other hne, Part.untriedCounted_ctx, hfctx]
    have hnone : (s.part.holdExpired p levels).ctx n = none := by rw [hpart]; exact Part.endCard_ctx _ _ _ _ _
    refine ⟨{ s with part := s.part.holdExpired p levels }, rfl, ?_, ?_, ?_, ?_, hother, fun a ha => ?_⟩
    · have htwo : (s.part.holdExpired p levels).two = f.two := by
        rw [Part.holdExpired_held hstate htimer hdue, Part.fenceEffects, hf]
        exact (failReadyList_onlyCards f (twoPort p)).two
      rw [Part.portFenced_two, Part.twoAt, htwo, ← hf]
      change ((s.part.setTwo p (s.part.twoAt p).fence).twoAt p).isFenced = true
      rw [Part.setTwo_twoAt, if_pos rfl]
      rfl
    · have hlatch : (f.untriedCounted n c).rep.latch .port = true := by
        rw [Part.untriedCounted_latch, ← hf, Part.tell_rep, Reports.latch_setLatch_self]
      rw [hpart]
      exact Reports.latch_endWord hlatch n _
    · rw [hpart]
      exact Part.endCard_cardEnded hwf n c.failedUntried .failed .portFenced
    · exact Part.readyCards_freed hready hnone hother
    · rw [hpart]
      exact ((Reports.endWord_mem hwf n _).2 a (Or.inr ha)).trans ((hmem a ha).trans (congrArg (fun m => Memory.get m a) hfmem))

end Sys2Proof.Machine
end

section
/-! The bounds of queue, tally, counts, debts and contexts, and the ready lists of fenced ports, across the rules for cards (R48, R56,
R65, R71, R140, R149). -/

namespace Sys2Proof.Machine

/-! ### Ready lists of fenced ports -/

/-- The context stands on no ready list of a fenced port. -/
def Context.offFenced (c : Context) (s : Part) : Prop := ∀ p, c.phase = .waiting p → s.portFenced p = false

/-- Card `n`'s work stands on no ready list of a fenced port. -/
def Part.offFenced (s : Part) (n : CardIx) : Prop := ∀ c, s.ctx n = some c → c.offFenced s

theorem Part.fencedListsEmpty_iff (s : Part) : s.fencedListsEmpty ↔ ∀ n, s.offFenced n := by
  constructor
  · intro h n c hc p hp
    by_contra hfenced
    have hmem : n ∈ s.readyCards p := Part.mem_readyCards.mpr ⟨c, hc, by simp [Context.onList, hp]⟩
    rw [h p (by simpa using hfenced)] at hmem
    cases hmem
  · intro h p hp
    refine List.eq_nil_iff_forall_not_mem.mpr (fun n hn => ?_)
    obtain ⟨c, hc, hlist⟩ := Part.mem_readyCards.mp hn
    have hfree := h n c hc p (by simpa [Context.onList] using hlist)
    rw [hp] at hfree
    cases hfree

/-- The fences of ports are read from the ports alone. -/
theorem Part.portFenced_of_ports {s t : Part} (htwo : t.two = s.two) (hfour : t.four = s.four) (p : PortIx) :
    t.portFenced p = s.portFenced p := by
  unfold Part.portFenced
  rw [htwo, hfour]

theorem OnlyCard.portFenced {n : CardIx} {s t : Part} (h : OnlyCard n s t) (p : PortIx) : t.portFenced p = s.portFenced p :=
  Part.portFenced_of_ports h.two h.four p

/-- A rule for one card leaves the other cards where they stand. -/
theorem OnlyCard.offFenced {n m : CardIx} {s t : Part} (h : OnlyCard n s t) (hm : m ≠ n) (hs : s.offFenced m) : t.offFenced m := by
  intro c hc p hp
  rw [h.portFenced]
  exact hs c ((h.ctx m hm).symm.trans hc) p hp

/-- A resolution gives no fenced port (R73). -/
theorem Part.resolve_portFenced {s : Part} {d : DevIx} {r : Resolution} (h : s.resolve d = .ok r) : s.portFenced r.port = false := by
  unfold Part.resolve at h
  split at h
  · cases h
  · split at h
    · cases h
    · simp only at h
      split at h
      · cases h
      · rename_i hport
        cases h
        simpa using hport

/-! ### Where a card's work stands after each rule -/

/-- A context in SLEEPING stands on no ready list. -/
theorem Context.offFenced_sleeping {c : Context} (h : c.phase = .sleeping) (s : Part) : c.offFenced s := by
  intro p hp
  rw [h] at hp
  cases hp

theorem Context.offFenced_samePhase {c c' : Context} {s : Part} (h : c.offFenced s) (hp : c'.phase = c.phase) : c'.offFenced s :=
  fun p h' => h p (hp ▸ h')

theorem Part.offFenced_setCtx {s : Part} {n : CardIx} {c : Context} (h : c.offFenced s) : (s.setCtx n (some c)).offFenced n := by
  intro x hx
  rw [Part.setCtx_ctx_self] at hx
  cases hx
  exact h

theorem Part.offFenced_free {s : Part} {n : CardIx} (h : s.ctx n = none) : s.offFenced n := by
  intro c hc
  rw [h] at hc
  cases hc

theorem Part.endCard_offFenced (s : Part) (n : CardIx) (c : Context) (state : ProgressState) (result : ResultCode) :
    (s.endCard n c state result).offFenced n := Part.offFenced_free (s.endCard_ctx n c state result)

/-- After the end of its current work a card has ended or is SLEEPING (R57). -/
theorem Part.afterEnd_offFenced (s : Part) (n : CardIx) (c : Context) (code : ResultCode) (invalid : Bool) (f : Fresh) :
    (s.afterEnd n c code invalid f).1.offFenced n := by
  have hend : ∀ state result, (s.endCardWork n c state result f).1.offFenced n := fun state result =>
    s.endCard_offFenced n c state result
  unfold Part.afterEnd
  split
  · exact hend _ _
  · split
    · exact hend _ _
    · split
      · split <;> exact hend _ _
      · split
        · exact hend _ _
        · split
          · exact hend _ _
          · split <;> exact Part.offFenced_setCtx (Context.offFenced_sleeping rfl _)

theorem Part.endInstance_offFenced (s : Part) (n : CardIx) (c : Context) (code : ResultCode) (data : List Byte) (f : Fresh) :
    (s.endInstance n c code data f).1.offFenced n := Part.afterEnd_offFenced _ _ _ _ _ _

/-- A resolution places a card's work on the list of a port that is not fenced, or ends it (R52, R61). -/
theorem Part.placeInstance_offFenced (s : Part) (n : CardIx) (c : Context) (window : Option Time) (f : Fresh) :
    (s.placeInstance n c window f).1.offFenced n := by
  unfold Part.placeInstance
  split
  · rename_i r hr
    refine Part.offFenced_setCtx (fun p hp => ?_)
    cases hp
    exact Part.resolve_portFenced hr
  · exact s.endInstance_offFenced n c _ [] f

theorem Part.takeOvertake_offFenced {s : Part} {c : Context} (h : c.offFenced s) (m : PassMode) (n : CardIx) (f : Fresh) :
    (s.takeOvertake m n c f).1.offFenced n := by
  unfold Part.takeOvertake
  split
  · split
    · unfold Part.overtakeAtLimit
      cases hphase : c.phase with
      | running => exact Part.offFenced_setCtx (Context.offFenced_samePhase h hphase.symm)
      | sleeping | waiting _ | retryWait => exact Part.endCard_offFenced _ _ _ _ _
    · exact Part.offFenced_setCtx (Context.offFenced_samePhase h rfl)
  · simp only
    split
    · exact Part.placeInstance_offFenced _ _ _ _ _
    · exact Part.offFenced_setCtx (Context.offFenced_samePhase h rfl)

theorem Part.takeWindow_offFenced {s : Part} {c : Context} (h : c.offFenced s) (n : CardIx) (f : Fresh) :
    (s.takeWindow n c f).1.offFenced n := by
  unfold Part.takeWindow
  split
  · exact Part.offFenced_setCtx (Context.offFenced_samePhase h rfl)
  · simp only
    split
    · exact Part.endCard_offFenced _ _ _ _ _
    · split
      · exact Part.endCard_offFenced _ _ _ _ _
      · exact Part.offFenced_setCtx (Context.offFenced_sleeping rfl _)

/-- A timed event leaves its card off the lists of fenced ports. -/
theorem Part.takeEvent_offFenced {s : Part} {c : Context} (h : c.offFenced s) (m : PassMode) (n : CardIx) (f : Fresh)
    (e : TimedEvent) : (s.takeEvent m n c f e).1.offFenced n := by
  cases e with
  | gap => exact Part.placeInstance_offFenced _ _ _ _ _
  | arrival => exact Part.placeInstance_offFenced _ _ _ _ _
  | window => exact Part.takeWindow_offFenced h n f
  | overtake => exact Part.takeOvertake_offFenced h m n f

theorem Part.workOnce_offFenced {s : Part} {m : PassMode} {n : CardIx} {w : Work} {x : Part × Work} (hs : s.offFenced n)
    (hx : s.workOnce m n w = some x) : x.1.offFenced n := by
  unfold Part.workOnce at hx
  split at hx
  · cases hx
  · rename_i c hc
    split at hx
    · cases hx
      exact s.placeInstance_offFenced n c none _
    · split at hx
      · cases hx
      · cases hx
        exact Part.takeEvent_offFenced (hs c hc) m n _ _

theorem workFor_offFenced (fuel : Nat) (m : PassMode) (n : CardIx) : ∀ (s : Part) (w : Work), s.offFenced n →
    (workFor fuel m n (s, w)).offFenced n := by
  induction fuel with
  | zero => exact fun _ _ h => h
  | succ fuel ih =>
    intro s w h
    unfold workFor
    split
    · exact h
    · rename_i x hx
      exact ih x.1 x.2 (Part.workOnce_offFenced h hx)

theorem Part.finish_offFenced (m : PassMode) {n : CardIx} {x : Part × Work} (h : x.1.offFenced n) : (Part.finish m n x).offFenced n :=
  workFor_offFenced Config.passBound m n x.1 x.2 h

/-! ### What every rule for a card keeps -/

/-- Across a rule for card `n` nothing but the reports and its context changes, and the bounds of the reports are kept. -/
def CardRule (n : CardIx) (s t : Part) : Prop := OnlyCard n s t ∧ (s.reportsBounded → t.reportsBounded)

theorem cardRule_closed (n : CardIx) (D : Context → Prop) : CardClosed n D (CardRule n) where
  refl s := ⟨(onlyCard_closed n).refl s, id⟩
  trans h h' := ⟨(onlyCard_closed n).trans h.1 h'.1, fun hs => h'.2 (h.2 hs)⟩
  ctx s c _ := ⟨(onlyCard_closed n).ctx s c (fun _ _ => trivial), id⟩
  word s a w ha := ⟨(onlyCard_closed n).word s a w ha, reportBounds_closed.word s.rep a w⟩
  latch s l := ⟨(onlyCard_closed n).latch s l, reportBounds_closed.latch s.rep l⟩
  done s d := ⟨(onlyCard_closed n).done s d, reportBounds_closed.done s.rep d⟩
  request s f := ⟨(onlyCard_closed n).request s f, reportBounds_closed.request s.rep _ _ f⟩
  told s a b c := ⟨(onlyCard_closed n).told s a b c, reportBounds_closed.told s.rep a b c⟩

/-- The debt of a context is within its limit (R56). -/
def Context.debtOk (c : Context) : Prop := c.debt ≤ Config.debtLimit

theorem debtOk_debtLike : DebtLike Context.debtOk := debt_debtLike

theorem Part.debtBounded_iff (s : Part) : s.debtBounded ↔ ∀ n, DAt Context.debtOk n s := Iff.rfl

/-- A step from one part to another keeps each of the bounds, gives no card a context that held none, and keeps the ready lists of
fenced ports empty. -/
structure Keeps (s t : Part) : Prop where
  reports : s.reportsBounded → t.reportsBounded
  counts : s.countsBounded → t.countsBounded
  debts : s.debtBounded → t.debtBounded
  held : ∀ m, (t.ctx m).isSome → (s.ctx m).isSome
  lists : s.fencedListsEmpty → t.fencedListsEmpty

theorem Keeps.refl (s : Part) : Keeps s s := ⟨id, id, id, fun _ => id, id⟩

theorem Keeps.trans {s t u : Part} (h : Keeps s t) (h' : Keeps t u) : Keeps s u where
  reports hs := h'.reports (h.reports hs)
  counts hs := h'.counts (h.counts hs)
  debts hs := h'.debts (h.debts hs)
  held m hm := h.held m (h'.held m hm)
  lists hs := h'.lists (h.lists hs)

/-- The same with the second step given first. -/
theorem Keeps.after {s t u : Part} (h' : Keeps t u) (h : Keeps s t) : Keeps s u := h.trans h'

theorem Keeps.foldl {f : Part → CardIx → Part} (hf : ∀ s n, Keeps s (f s n)) (ns : List CardIx) : ∀ s, Keeps s (ns.foldl f s) := by
  induction ns with
  | nil => exact Keeps.refl
  | cons n ns ih => exact fun s => (hf s n).trans (ih (f s n))

theorem OnlyCard.countsBounded {n : CardIx} {s t : Part} (h : OnlyCard n s t) (hs : s.countsBounded) : t.countsBounded := by
  unfold Part.countsBounded
  rw [h.dev, h.time]
  exact hs

/-- A rule for a card that held a context when the step began, whatever has become of that context by then. -/
theorem Keeps.thenCard {s u t : Part} {n : CardIx} {c : Context} (h : Keeps s u) (hctx : s.ctx n = some c) (hrule : CardRule n u t)
    (hdebt : c.debtOk → DAt Context.debtOk n t) (hoff : c.offFenced s → t.offFenced n) : Keeps s t where
  reports hs := hrule.2 (h.reports hs)
  counts hs := hrule.1.countsBounded (h.counts hs)
  debts hs m x hx := by
    by_cases hm : m = n
    · subst hm
      exact hdebt (hs _ c hctx) x hx
    · exact h.debts hs m x ((hrule.1.ctx m hm).symm.trans hx)
  held m hm := by
    by_cases hmn : m = n
    · rw [hmn, hctx]; rfl
    · rw [hrule.1.ctx m hmn] at hm
      exact h.held m hm
  lists hs := by
    have hs' := (Part.fencedListsEmpty_iff s).mp hs
    have hu := (Part.fencedListsEmpty_iff u).mp (h.lists hs)
    refine (Part.fencedListsEmpty_iff t).mpr (fun m => ?_)
    by_cases hm : m = n
    · subst hm
      exact hoff (hs' _ c hctx)
    · exact hrule.1.offFenced hm (hu m)

/-- A rule for a card that holds a context. -/
theorem Keeps.card {s t : Part} {n : CardIx} {c : Context} (hctx : s.ctx n = some c) (hrule : CardRule n s t)
    (hdebt : c.debtOk → DAt Context.debtOk n t) (hoff : c.offFenced s → t.offFenced n) : Keeps s t :=
  (Keeps.refl s).thenCard hctx hrule hdebt hoff

theorem dAt_of_ctx {s : Part} {n : CardIx} {c : Context} {D : Context → Prop} (hctx : s.ctx n = some c) (h : D c) : DAt D n s := by
  intro x hx
  rw [hctx] at hx
  cases hx
  exact h

/-- The end of a card's current work, with what is left to do. -/
theorem endInstance_rule (m : PassMode) (s : Part) (n : CardIx) (c : Context) (code : ResultCode) (data : List Byte) (f : Fresh) :
    let t := Part.finish m n (s.endInstance n c code data f)
    CardRule n s t ∧ (c.debtOk → DAt Context.debtOk n t) ∧ t.offFenced n := by
  have hrule := cardRule_closed n Always
  have hdebt := cardRule_closed n Context.debtOk
  refine ⟨(hrule.thenFinish always_debtLike m (hrule.endInstance always_debtLike s code data f trivial)).1, fun h => ?_,
    Part.finish_offFenced m (s.endInstance_offFenced n c code data f)⟩
  exact (hdebt.thenFinish debtOk_debtLike m (hdebt.endInstance debtOk_debtLike s code data f h)).2

/-- A resolution of a card's current work, with what is left to do. -/
theorem placeInstance_rule (m : PassMode) (s : Part) (n : CardIx) (c : Context) (window : Option Time) (f : Fresh) :
    let t := Part.finish m n (s.placeInstance n c window f)
    CardRule n s t ∧ (c.debtOk → DAt Context.debtOk n t) ∧ t.offFenced n := by
  have hrule := cardRule_closed n Always
  have hdebt := cardRule_closed n Context.debtOk
  refine ⟨(hrule.thenFinish always_debtLike m (hrule.placeInstance always_debtLike s window f trivial)).1, fun h => ?_,
    Part.finish_offFenced m (s.placeInstance_offFenced n c window f)⟩
  exact (hdebt.thenFinish debtOk_debtLike m (hdebt.placeInstance debtOk_debtLike s window f h)).2

/-- The work left for a card. -/
theorem finish_keeps (m : PassMode) (s : Part) (n : CardIx) (w : Work) : Keeps s (Part.finish m n (s, w)) := by
  cases hctx : s.ctx n with
  | none => rw [Part.finish_free hctx]; exact Keeps.refl s
  | some c =>
    refine Keeps.card hctx ((cardRule_closed n Always).finish always_debtLike m (s, w) (dAt_always n s)).1 (fun h => ?_) (fun h => ?_)
    · exact ((cardRule_closed n _).finish debtOk_debtLike m (s, w) (dAt_of_ctx hctx h)).2
    · exact Part.finish_offFenced m (x := (s, w)) (dAt_of_ctx (D := fun c => c.offFenced s) hctx h)

theorem timedCommand_keeps (s : Part) (n : CardIx) (e : TimedEvent) : Keeps s (s.timedCommand n e) := by
  cases hctx : s.ctx n with
  | none =>
    have hnone : s.timedCommand n e = s := by rw [Part.timedCommand, hctx]
    rw [hnone]
    exact Keeps.refl s
  | some c =>
    refine Keeps.card hctx ((cardRule_closed n Always).timedCommand always_debtLike s e (dAt_always n s)).1 (fun h => ?_) (fun h => ?_)
    · exact ((cardRule_closed n _).timedCommand debtOk_debtLike s e (dAt_of_ctx hctx h)).2
    · rw [Part.timedCommand, hctx]
      simp only
      split
      · exact Part.finish_offFenced _ (Part.takeEvent_offFenced h _ n _ e)
      · exact dAt_of_ctx (D := fun c => c.offFenced s) hctx h

theorem dueArrival_keeps (s : Part) (n : CardIx) : Keeps s (s.dueArrival n) := by
  unfold Part.dueArrival
  split
  · exact Keeps.refl s
  · exact timedCommand_keeps s n _

/-- A WAITING card resolved again. -/
theorem reresolve_keeps (s : Part) (n : CardIx) : Keeps s (s.reresolve n) := by
  unfold Part.reresolve
  split
  · exact Keeps.refl s
  · rename_i c hctx
    split
    · rename_i r hr
      refine Keeps.card hctx ((cardRule_closed n Always).put s trivial) (fun h => DAt.set h) (fun _ => ?_)
      refine Part.offFenced_setCtx (fun p hp => ?_)
      cases hp
      exact Part.resolve_portFenced hr
    · rename_i code _
      obtain ⟨hrule, hdebt, hoff⟩ := endInstance_rule .plain s n c code [] .none
      exact Keeps.card hctx hrule hdebt (fun _ => hoff)

theorem reresolveWhere_keeps (s : Part) (p : Context → Bool) : Keeps s (s.reresolveWhere p) := Keeps.foldl reresolve_keeps _ s

/-- The end of a card that holds a context. -/
theorem endCard_keeps {s : Part} {n : CardIx} {c : Context} (hctx : s.ctx n = some c) (x : Context) (state : ProgressState)
    (result : ResultCode) : Keeps s (s.endCard n x state result) :=
  Keeps.card hctx ((cardRule_closed n Always).endCard s x state result).1 (fun _ => DAt.free) (fun _ => s.endCard_offFenced n x _ _)

/-! ### Changes that leave the contexts -/

/-- Between two parts the contexts stand, no further port is fenced, and the counts and the reports keep their bounds. -/
structure Quiet (s t : Part) : Prop where
  ctxs : t.ctxs = s.ctxs
  fences : ∀ p, t.portFenced p = true → s.portFenced p = true
  counts : s.countsBounded → t.countsBounded
  reports : s.reportsBounded → t.reportsBounded

theorem Quiet.refl (s : Part) : Quiet s s := ⟨rfl, fun _ => id, id, id⟩

theorem Quiet.trans {s t u : Part} (h : Quiet s t) (h' : Quiet t u) : Quiet s u where
  ctxs := h'.ctxs.trans h.ctxs
  fences p hp := h.fences p (h'.fences p hp)
  counts hs := h'.counts (h.counts hs)
  reports hs := h'.reports (h.reports hs)

/-- The same with the second change given first. -/
theorem Quiet.after {s t u : Part} (h' : Quiet t u) (h : Quiet s t) : Quiet s u := h.trans h'

theorem Quiet.keeps {s t : Part} (h : Quiet s t) : Keeps s t where
  reports := h.reports
  counts := h.counts
  debts hs m c hc := hs m c ((Part.ctx_congr h.ctxs m).symm.trans hc)
  held m hm := by rwa [Part.ctx_congr h.ctxs m] at hm
  lists hs p hp := (Part.readyCards_congr h.ctxs p).trans (hs p (h.fences p hp))

theorem Quiet.tell (s : Part) (l : Latch) : Quiet s (s.tell l) := ⟨rfl, fun _ => id, id, id⟩

theorem Quiet.request (s : Part) (f : FaultRecord) : Quiet s (s.request f) :=
  ⟨rfl, fun _ => id, id, reportBounds_closed.request s.rep _ _ f⟩

theorem Quiet.requestIf (s : Part) (f : Option FaultRecord) : Quiet s (s.requestIf f) := by
  cases f with
  | none => exact Quiet.refl s
  | some f => exact Quiet.request s f

/-- A two-wire port takes another state that is no further fence. -/
theorem Quiet.setTwo {s : Part} {p : TwoIx} {t : TwoWire} (h : t.isFenced = true → (s.twoAt p).isFenced = true) :
    Quiet s (s.setTwo p t) := by
  refine ⟨rfl, fun port hport => ?_, id, id⟩
  rcases twoPort_or_fourPort port with ⟨q, rfl⟩ | ⟨q, rfl⟩
  · rw [Part.portFenced_two, Part.setTwo_twoAt] at hport
    rw [Part.portFenced_two]
    split at hport
    · rename_i hq
      rw [hq]
      exact h hport
    · exact hport
  · rw [Part.portFenced_four] at hport ⊢
    exact hport

theorem Quiet.setFour {s : Part} {q : FourIx} {t : FourWire} (h : t.isFenced = true → (s.fourAt q).isFenced = true) :
    Quiet s (s.setFour q t) := by
  refine ⟨rfl, fun port hport => ?_, id, id⟩
  rcases twoPort_or_fourPort port with ⟨p, rfl⟩ | ⟨p, rfl⟩
  · rw [Part.portFenced_two] at hport ⊢
    exact hport
  · rw [Part.portFenced_four, Part.setFour_fourAt] at hport
    rw [Part.portFenced_four]
    split at hport
    · rename_i hq
      rw [hq]
      exact h hport
    · exact hport

/-- The two-wire ports changed port by port, none of them newly fenced. -/
theorem Quiet.mapTwo (s : Part) {f : TwoWire → TwoWire} (hf : ∀ t, (f t).isFenced = true → t.isFenced = true) :
    Quiet s { s with two := s.two.map f } := by
  refine ⟨rfl, fun port hport => ?_, id, id⟩
  unfold Part.portFenced at hport ⊢
  split at hport
  · rename_i h
    rw [dif_pos h]
    exact hf _ (by simpa using hport)
  · rename_i h
    rw [dif_neg h]
    exact hport

theorem Quiet.mapFour (s : Part) {g : FourWire → FourWire} (hg : ∀ t, (g t).isFenced = true → t.isFenced = true) :
    Quiet s { s with four := s.four.map g } := by
  refine ⟨rfl, fun port hport => ?_, id, id⟩
  unfold Part.portFenced at hport ⊢
  split at hport
  · rename_i h
    rw [dif_pos h]
    exact hport
  · rename_i h
    rw [dif_neg h]
    exact hg _ (by simpa using hport)

/-- A change of the reports that leaves the queue and the tally. -/
theorem Quiet.report {s : Part} {f : Reports → Reports} (hq : (f s.rep).queue = s.rep.queue) (ht : (f s.rep).tally = s.rep.tally) :
    Quiet s (s.report f) := by
  refine ⟨rfl, fun _ => id, id, fun hs => ?_⟩
  unfold Part.reportsBounded
  rw [Part.report_rep, hq, ht]
  exact hs

/-- The Device Status Unit takes contents whose fault counts are within their bound. -/
theorem Quiet.changeDevice {s : Part} {u : DeviceUnit} (h : (∀ d, (s.dev.get d).faults ≤ 15) → ∀ d, (u.get d).faults ≤ 15)
    (d : DevIx) : Quiet s (s.changeDevice u d) := by
  rw [Part.changeDevice_eq]
  exact ⟨rfl, fun _ => id, fun hs => ⟨h hs.1, hs.2⟩, id⟩

theorem DeviceUnit.faults_put {u : DeviceUnit} {d : DevIx} {r : DeviceRecord}
    (h : (∀ d, (u.get d).faults ≤ 15) → r.faults ≤ 15) (hu : ∀ d, (u.get d).faults ≤ 15) (e : DevIx) :
    ((u.put d r).get e).faults ≤ 15 := by
  rw [DeviceUnit.get_put]
  split
  · exact h hu
  · exact hu e

/-- One device takes a record whose fault count is within its bound. -/
theorem Quiet.putDevice {s : Part} {d : DevIx} {r : DeviceRecord} (h : (∀ d, (s.dev.get d).faults ≤ 15) → r.faults ≤ 15) :
    Quiet s (s.changeDevice (s.dev.put d r) d) := Quiet.changeDevice (DeviceUnit.faults_put h) d

/-! ### Fences (R65, R106, R121) -/

/-- A card on the ready list of a fenced port fails (R65). -/
def Part.failInstance (s : Part) (n : CardIx) : Part :=
  match s.ctx n with
  | none => s
  | some c => Part.finish .plain n (s.endInstance n c .portFenced [] .none)

theorem Part.failReadyList_eq_foldl (s : Part) (p : PortIx) : s.failReadyList p = (s.readyCards p).foldl Part.failInstance s := rfl

theorem failInstance_spec (s : Part) (n : CardIx) :
    Keeps s (s.failInstance n) ∧ OnlyCard n s (s.failInstance n) ∧ (s.failInstance n).offFenced n := by
  unfold Part.failInstance
  split
  · rename_i hctx
    exact ⟨Keeps.refl s, (onlyCard_closed n).refl s, Part.offFenced_free hctx⟩
  · rename_i c hctx
    obtain ⟨hrule, hdebt, hoff⟩ := endInstance_rule .plain s n c .portFenced [] .none
    exact ⟨Keeps.card hctx hrule hdebt (fun _ => hoff), hrule.1, hoff⟩

/-- Cards failed one after the other stand on no fenced list afterwards, nor do those that stood on none before. -/
theorem foldl_failInstance_offFenced (ns : List CardIx) (m : CardIx) :
    ∀ s : Part, (m ∈ ns ∨ s.offFenced m) → (ns.foldl Part.failInstance s).offFenced m := by
  induction ns with
  | nil => exact fun s h => h.elim (fun hm => by cases hm) id
  | cons n ns ih =>
    intro s h
    obtain ⟨_, honly, hoff⟩ := failInstance_spec s n
    refine ih _ ?_
    by_cases hm : m = n
    · exact Or.inr (hm ▸ hoff)
    · exact h.imp (fun hmem => (List.mem_cons.mp hmem).resolve_left hm) (honly.offFenced hm)

/-- The fence of a port: its ready list fails, and the lists of the other fenced ports stay empty. -/
theorem fenceEffects_keeps {s u : Part} {p : PortIx} (hctxs : u.ctxs = s.ctxs)
    (hfences : ∀ q, q ≠ p → u.portFenced q = true → s.portFenced q = true) (hcounts : s.countsBounded → u.countsBounded)
    (hreports : s.reportsBounded → u.reportsBounded) : Keeps s (u.fenceEffects p) := by
  have hfail : Keeps (u.tell .port) (u.fenceEffects p) := by
    rw [Part.fenceEffects, Part.failReadyList_eq_foldl]
    exact Keeps.foldl (fun s n => (failInstance_spec s n).1) _ _
  have htell : (u.tell .port).ctxs = s.ctxs := hctxs
  refine ⟨fun hs => hfail.reports (hreports hs), fun hs => hfail.counts (hcounts hs),
    fun hs => hfail.debts (fun m c hc => hs m c ((Part.ctx_congr htell m).symm.trans hc)),
    fun m hm => by rw [← Part.ctx_congr htell m]; exact hfail.held m hm, fun hs => ?_⟩
  rw [Part.fencedListsEmpty_iff] at hs
  refine (Part.fencedListsEmpty_iff _).mpr (fun m => ?_)
  rw [Part.fenceEffects, Part.failReadyList_eq_foldl]
  refine foldl_failInstance_offFenced _ m _ ?_
  by_cases hmem : m ∈ (u.tell .port).readyCards p
  · exact Or.inl hmem
  · refine Or.inr (fun c hc q hq => ?_)
    have hqp : q ≠ p := fun e => hmem (Part.mem_readyCards.mpr ⟨c, hc, by simp [Context.onList, hq, e]⟩)
    have hfree := hs m c ((Part.ctx_congr htell m).symm.trans hc) q hq
    by_contra hfenced
    rw [hfences q hqp (Bool.eq_true_of_not_eq_false hfenced)] at hfree
    cases hfree

end Sys2Proof.Machine
end

section
/-! Every step keeps the bounds and the ready lists of fenced ports empty: the walk over the commands (R48, R56, R65, R71, R106, R121,
R140, R149, R175). -/

namespace Sys2Proof.Machine

/-! ### The ends of attempts -/

theorem Quiet.tryStop (s : Part) : Quiet s s.tryStop := by
  unfold Part.tryStop
  split
  · exact ⟨rfl, fun _ => id, id, id⟩
  · exact Quiet.refl s

theorem deviceSucceeded_quiet (s : Part) (d : DevIx) (setting : Bool) (guardTime : Nat) (stop : Time) :
    Quiet s (s.deviceSucceeded d setting guardTime stop) := by
  rw [Part.deviceSucceeded_eq]
  refine Quiet.putDevice (fun h => ?_)
  unfold DeviceRecord.succeeded
  simp only
  split
  · exact h d
  · omega

/-- Automatic substitution changes the map alone. -/
theorem SubstDecision.applyTo_get (x : SubstDecision) (u : DeviceUnit) (d e : DevIx) : (x.applyTo u d).get e = u.get e := by
  cases x with
  | nothing | full _ => rfl
  | enter b =>
    unfold SubstDecision.applyTo DeviceUnit.enter
    simp only
    split <;> rfl

theorem fenceDevice_keeps (s : Part) (a : Attempt) (g : Byte) (code : ResultCode) {r : DeviceRecord} (hr : r.faults ≤ 15) :
    Keeps s (s.fenceDevice a g code r) := by
  unfold Part.fenceDevice
  simp only
  have hrequests := (Quiet.request s (deviceFencedRecord s.now a g code)).trans
    (Quiet.requestIf _ ((s.substDecision a.device).record s.now a.device a.card g))
  have hdev := fun (t : Part) (h : t.dev = s.dev) => Quiet.changeDevice (s := t)
    (u := (s.substDecision a.device).applyTo (s.dev.put a.device { r with health := .fenced }) a.device)
    (fun hs d => by
      rw [SubstDecision.applyTo_get]
      exact DeviceUnit.faults_put (r := { r with health := .fenced }) (fun _ => hr) (h ▸ hs) d) a.device
  refine ((hrequests.trans (hdev _ ?_)).keeps).trans (reresolveWhere_keeps _ _)
  unfold Part.requestIf
  split <;> rfl

theorem deviceFailed_keeps (s : Part) (a : Attempt) (g : Byte) (code : ResultCode) : Keeps s (s.deviceFailed a g code) := by
  unfold Part.deviceFailed
  simp only
  split
  · exact (Quiet.putDevice (fun _ => Nat.min_le_left _ _)).keeps
  · split
    · exact fenceDevice_keeps s a g code (Nat.min_le_left _ _)
    · exact (Quiet.putDevice (fun _ => Nat.min_le_left _ _)).keeps

/-- What the Schedule Unit does on an outcome, with the work it leaves, for a card that held a context when the step began. -/
theorem actOn_keeps {s u : Part} {a : Attempt} {c c' : Context} (h : Keeps s u) (hctx : s.ctx a.card = some c)
    (hdebt : c'.debt = c.debt) (stop : Time) (data : List Byte) (v : Verdict) :
    Keeps s (Part.finish .plain a.card (u.actOn a c' stop data v)) := by
  have hok : c.debtOk → c'.debtOk := fun h => debtOk_debtLike.same h hdebt
  have hends : ∀ {u code data}, Keeps s u → Keeps s (Part.finish .plain a.card (u.endInstance a.card c' code data .none)) :=
    fun {u code data} h => by
      obtain ⟨hrule, hd, hoff⟩ := endInstance_rule .plain u a.card c' code data .none
      exact h.thenCard hctx hrule (fun hc => hd (hok hc)) (fun _ => hoff)
  unfold Part.actOn
  cases v with
  | succeed => exact hends (h.trans (deviceSucceeded_quiet u _ _ _ _).keeps)
  | fail code => exact hends (h.trans (deviceFailed_keeps u a _ code))
  | retry =>
    have hwait : Keeps s (u.setCtx a.card (some
        { c' with phase := .retryWait, gapExpiry := some (stop + BitVec.ofNat 32 (10 * a.entry.retryGap)) })) :=
      h.thenCard hctx ((cardRule_closed a.card Always).put u trivial) (fun hc => DAt.set (hok hc))
        (fun _ => Part.offFenced_setCtx (fun p hp => by cases hp))
    exact hwait.trans (finish_keeps _ _ _ _)
  | yieldAgain =>
    obtain ⟨hrule, hd, hoff⟩ := placeInstance_rule .plain u a.card c' none .none
    exact h.thenCard hctx hrule (fun hc => hd (hok hc)) (fun _ => hoff)
  | abandon =>
    simp only
    split
    · refine (h.thenCard hctx ((cardRule_closed a.card Always).endCard u c' _ _).1 (fun _ => DAt.free)
        (fun _ => u.endCard_offFenced _ _ _ _)).trans (finish_keeps _ _ _ _)
    · exact h.trans (finish_keeps _ _ _ _)

theorem attemptEnded_keeps (s : Part) (port : PortIx) (a : Attempt) (o : AttemptOutcome) (stop : Time) (p : BusPoint) :
    Keeps s (s.attemptEnded port a o stop p) := by
  unfold Part.attemptEnded
  split
  · exact (Quiet.tryStop s).keeps
  · rename_i c hctx
    exact (actOn_keeps (Quiet.requestIf s _).keeps hctx (s.afterAttempt_debt c a o stop) stop o.data _).trans (Quiet.tryStop _).keeps

/-! ### Two-wire ports -/

theorem TwoWire.isFenced_of_state {t : TwoWire} (h : t.state = .idle ∨ t.state = .held ∨ ∃ ph a, t.state = .active ph a) :
    t.isFenced = false := by
  rcases h with h | h | ⟨ph, a, h⟩ <;> rw [TwoWire.isFenced, h]

/-- A port that is not fenced, whatever it was. -/
theorem Quiet.unfenceTwo {s : Part} {p : TwoIx} {t : TwoWire} (h : t.isFenced = false) : Quiet s (s.setTwo p t) :=
  Quiet.setTwo (fun h' => by rw [h] at h'; cases h')

theorem Quiet.unfenceFour {s : Part} {q : FourIx} {t : FourWire} (h : t.isFenced = false) : Quiet s (s.setFour q t) :=
  Quiet.setFour (fun h' => by rw [h] at h'; cases h')

/-- A port whose state stands. -/
theorem Quiet.sameTwo {s : Part} {p : TwoIx} {t : TwoWire} (h : t.state = (s.twoAt p).state) : Quiet s (s.setTwo p t) :=
  Quiet.setTwo (fun h' => by unfold TwoWire.isFenced at h' ⊢; rwa [h] at h')

theorem Quiet.sameFour {s : Part} {q : FourIx} {t : FourWire} (h : t.state = (s.fourAt q).state) : Quiet s (s.setFour q t) :=
  Quiet.setFour (fun h' => by unfold FourWire.isFenced at h' ⊢; rwa [h] at h')

theorem Part.fourIdle_isFenced (s : Part) (t : FourWire) : (s.fourIdle t).isFenced = false := by
  unfold Part.fourIdle
  split <;> rfl

theorem driveStart_quiet (s : Part) (p : TwoIx) (free : Measure) : Quiet s (s.driveStart p free) := by
  unfold Part.driveStart
  simp only
  split
  · exact Quiet.refl s
  · split
    · exact Quiet.unfenceTwo rfl
    · exact Quiet.refl s

theorem loseStart_keeps (s : Part) (p : TwoIx) (a : Attempt) (levels : BitVec 2) : Keeps s (s.loseStart p a levels) :=
  (Quiet.unfenceTwo (s.twoIdle_isFenced _)).keeps.trans (attemptEnded_keeps _ _ _ _ _ _)

theorem startSeen_keeps (s : Part) (p : TwoIx) : Keeps s (s.startSeen p) := by
  unfold Part.startSeen
  simp only
  split
  · exact loseStart_keeps s p _ _
  · split
    · exact (Quiet.unfenceTwo (s.twoIdle_isFenced _)).keeps
    all_goals
      refine (Quiet.sameTwo ?_).keeps
      rfl

theorem TwoWire.freed_isFenced {t : TwoWire} (h : t.freed.isFenced = true) : t.isFenced = true := by
  unfold TwoWire.freed at h
  split at h
  · cases h
  all_goals exact h

theorem stopSeen_quiet (s : Part) (p : TwoIx) : Quiet s (s.stopSeen p) := Quiet.setTwo TwoWire.freed_isFenced

theorem busFree_quiet (s : Part) (p : TwoIx) (high : Measure) : Quiet s (s.busFree p high) := by
  unfold Part.busFree
  simp only
  split
  · exact Quiet.setTwo TwoWire.freed_isFenced
  · exact Quiet.refl s

theorem endByStop_keeps (s : Part) (p : TwoIx) (a : Attempt) (o : AttemptOutcome) (point : BusPoint) (wire : List BusItem) :
    Keeps s (s.endByStop p a o point wire) :=
  (Quiet.unfenceTwo (s.twoIdle_isFenced _)).keeps.trans (attemptEnded_keeps _ _ _ _ _ _)

theorem twoDone_keeps (s : Part) (p : TwoIx) (data : List Byte) : Keeps s (s.twoDone p data) := by
  unfold Part.twoDone
  split
  · exact Keeps.refl s
  · split
    · exact endByStop_keeps s p _ _ _ _
    · exact Keeps.refl s

theorem refusedByte_keeps (s : Part) (p : TwoIx) (o : AttemptOutcome) (pos : BusPos) (rx : List Byte) (levels : BitVec 2)
    (f : SlotKind → Option Byte) : Keeps s (s.refusedByte p o pos rx levels f) := by
  unfold Part.refusedByte
  split
  · exact Keeps.refl s
  · split
    · exact Keeps.refl s
    · split
      · exact Keeps.refl s
      · split
        · exact Keeps.refl s
        · exact endByStop_keeps s p _ _ _ _

theorem wrongCheck_keeps (s : Part) (p : TwoIx) (pos : BusPos) (rx : List Byte) (got : Byte) (levels : BitVec 2) :
    Keeps s (s.wrongCheck p pos rx got levels) := by
  unfold Part.wrongCheck
  split
  · exact Keeps.refl s
  · split
    · exact Keeps.refl s
    · split
      · exact Keeps.refl s
      · split
        · exact endByStop_keeps s p _ _ _ _
        · exact Keeps.refl s

theorem dataNack_keeps (s : Part) (p : TwoIx) (leg i : Nat) (rx : List Byte) (levels : BitVec 2) :
    Keeps s (s.dataNack p leg i rx levels) := by
  unfold Part.dataNack
  split
  · exact Keeps.refl s
  · split
    · exact refusedByte_keeps s p _ _ _ _ _
    · exact Keeps.refl s

theorem checkMismatch_keeps (s : Part) (p : TwoIx) (leg : Nat) (rx : List Byte) (got : Option Byte) (levels : BitVec 2) :
    Keeps s (s.checkMismatch p leg rx got levels) := by
  unfold Part.checkMismatch
  split
  · exact Keeps.refl s
  · split
    · exact refusedByte_keeps s p _ _ _ _ _
    · exact wrongCheck_keeps s p _ _ _ _

theorem arbLost_keeps (s : Part) (p : TwoIx) (pos : BusPos) (rx : List Byte) (levels : BitVec 2) :
    Keeps s (s.arbLost p pos rx levels) := by
  unfold Part.arbLost
  split
  · exact loseStart_keeps s p _ _
  · split
    · exact Keeps.refl s
    · split
      · exact Keeps.refl s
      · split
        · exact (Quiet.unfenceTwo (s.twoIdle_isFenced _)).keeps.trans (attemptEnded_keeps _ _ _ _ _ _)
        · exact Keeps.refl s

theorem busError_keeps (s : Part) (p : TwoIx) (pos : BusPos) (rx : List Byte) (isStop : Bool) :
    Keeps s (s.busError p pos rx isStop) := by
  unfold Part.busError
  split
  · exact Keeps.refl s
  · split
    · exact Keeps.refl s
    · split
      · exact (Quiet.unfenceTwo (s.twoIdle_isFenced _)).keeps.trans (attemptEnded_keeps _ _ _ _ _ _)
      · exact Keeps.refl s

theorem stretchTimeout_quiet (s : Part) (p : TwoIx) (pos : BusPos) (rx : List Byte) (low : Measure) (dataHigh : Bool) :
    Quiet s (s.stretchTimeout p pos rx low dataHigh) := by
  unfold Part.stretchTimeout
  split
  · exact Quiet.refl s
  · split
    · exact Quiet.refl s
    · split
      · exact Quiet.unfenceTwo rfl
      · exact Quiet.refl s

/-- The fence of a two-wire port that is changed to a fenced one. -/
theorem fenceTwo_keeps {s : Part} {p : TwoIx} {t : TwoWire} (f : FaultRecord) :
    Keeps s (((s.setTwo p t).request f).fenceEffects (twoPort p)) := by
  refine fenceEffects_keeps rfl (fun port hne hport => ?_) id (reportBounds_closed.request s.rep _ _ f)
  rcases twoPort_or_fourPort port with ⟨q, rfl⟩ | ⟨q, rfl⟩
  · have hq : q ≠ p := fun e => hne (congrArg twoPort e)
    have hport' : (s.setTwo p t).portFenced (twoPort q) = true := hport
    rw [Part.portFenced_two, Part.setTwo_twoAt, if_neg hq] at hport'
    rw [Part.portFenced_two]
    exact hport'
  · rw [Part.portFenced_four] at hport ⊢
    exact hport

theorem fenceFour_keeps {s : Part} {q : FourIx} {t : FourWire} (f : FaultRecord) :
    Keeps s (((s.setFour q t).request f).fenceEffects (fourPort q)) := by
  refine fenceEffects_keeps rfl (fun port hne hport => ?_) id (reportBounds_closed.request s.rep _ _ f)
  rcases twoPort_or_fourPort port with ⟨p, rfl⟩ | ⟨p, rfl⟩
  · rw [Part.portFenced_two] at hport ⊢
    exact hport
  · have hp : p ≠ q := fun e => hne (congrArg fourPort e)
    have hport' : (s.setFour q t).portFenced (fourPort p) = true := hport
    rw [Part.portFenced_four, Part.setFour_fourAt, if_neg hp] at hport'
    rw [Part.portFenced_four]
    exact hport'

theorem holdExpired_keeps (s : Part) (p : TwoIx) (levels : BitVec 2) : Keeps s (s.holdExpired p levels) := by
  unfold Part.holdExpired
  simp only
  split
  · exact fenceTwo_keeps _
  · exact Keeps.refl s

/-! ### Four-wire ports -/

theorem selectAssert_quiet (s : Part) (q : FourIx) (deselected idle : Measure) : Quiet s (s.selectAssert q deselected idle) := by
  unfold Part.selectAssert
  simp only
  split
  · split
    · exact Quiet.unfenceFour rfl
    · exact Quiet.refl s
  all_goals exact Quiet.refl s

theorem selectLeadEnd_quiet (s : Part) (q : FourIx) (lead : Measure) : Quiet s (s.selectLeadEnd q lead) := by
  unfold Part.selectLeadEnd
  simp only
  split
  · split
    · split
      · exact Quiet.unfenceFour rfl
      · exact Quiet.refl s
    · exact Quiet.refl s
  all_goals exact Quiet.refl s

theorem endByDeselect_keeps (s : Part) (q : FourIx) (a : Attempt) (o : AttemptOutcome) (point : BusPoint) (wire : List BusItem) :
    Keeps s (s.endByDeselect q a o point wire) :=
  (Quiet.unfenceFour (s.fourIdle_isFenced _)).keeps.trans (attemptEnded_keeps _ _ _ _ _ _)

theorem fourFinished_keeps {s t : Part} {q : FourIx} {data : List Byte} (h : s.fourFinished q data = some t) : Keeps s t := by
  unfold Part.fourFinished at h
  split at h
  · cases h
  · split at h
    · cases h
      exact endByDeselect_keeps s q _ _ _ _
    · cases h

theorem fourDone_keeps (s : Part) (q : FourIx) (data : List Byte) : Keeps s (s.fourDone q data) := by
  unfold Part.fourDone
  cases h : s.fourFinished q data with
  | none => exact Keeps.refl s
  | some t => exact fourFinished_keeps h

theorem fourCheckMismatch_keeps (s : Part) (q : FourIx) (leg : Nat) (rx : List Byte) (got : Byte) (levels : BitVec 3) :
    Keeps s (s.fourCheckMismatch q leg rx got levels) := by
  unfold Part.fourCheckMismatch
  split
  · exact Keeps.refl s
  · split
    · exact Keeps.refl s
    · split
      · exact Keeps.refl s
      · split
        · exact Keeps.refl s
        · split
          · exact endByDeselect_keeps s q _ _ _ _
          · exact Keeps.refl s

theorem contendSelect_keeps (s : Part) (q : FourIx) (asserted : Bool) (a : Attempt) (levels : BitVec 3) :
    Keeps s (s.contendSelect q asserted a levels) := by
  unfold Part.contendSelect
  simp only
  split
  · exact endByDeselect_keeps s q _ _ _ _
  · exact (Quiet.unfenceFour (s.fourIdle_isFenced _)).keeps.trans (attemptEnded_keeps _ _ _ _ _ _)

theorem contendData_keeps {s t : Part} {q : FourIx} {leg i : Nat} {rx : List Byte} {levels : BitVec 3}
    (h : s.contendData q leg i rx levels = some t) : Keeps s t := by
  unfold Part.contendData at h
  split at h
  · cases h
  · split at h
    · cases h
    · cases h
      exact endByDeselect_keeps s q _ _ _ _

theorem senseActive_keeps {s t : Part} {q : FourIx} {phase : FourPhase} {a : Attempt} {pos : SensePos} {rx : List Byte}
    {levels : BitVec 3} (h : s.senseActive q phase a pos rx levels = some t) : Keeps s t := by
  unfold Part.senseActive at h
  split at h
  · cases h
    exact contendSelect_keeps s q _ a levels
  · exact contendData_keeps h
  · exact fourFinished_keeps h
  · cases h

theorem senseAsserted_keeps (s : Part) (q : FourIx) (pos : SensePos) (rx : List Byte) (levels : BitVec 3) :
    Keeps s (s.senseAsserted q pos rx levels) := by
  have hread : Quiet s (s.setSense q true) := Quiet.sameFour rfl
  unfold Part.senseAsserted
  simp only
  split
  · exact Keeps.refl s
  · split
    · exact hread.keeps
    · split
      · exact (hread.trans (Quiet.unfenceFour (Part.fourIdle_isFenced _ _))).keeps
      · exact hread.keeps
      · exact hread.keeps
      · rename_i phase a _
        cases h : (s.setSense q true).senseActive q phase a pos rx levels with
        | none => exact Keeps.refl s
        | some t => exact hread.keeps.trans (senseActive_keeps h)

theorem senseDeasserted_quiet (s : Part) (q : FourIx) : Quiet s (s.senseDeasserted q) := by
  unfold Part.senseDeasserted
  simp only
  split
  · exact Quiet.unfenceFour rfl
  all_goals exact Quiet.sameFour rfl

theorem senseHoldExpired_keeps (s : Part) (q : FourIx) (levels : BitVec 3) : Keeps s (s.senseHoldExpired q levels) := by
  unfold Part.senseHoldExpired
  simp only
  split
  · exact fenceFour_keeps _
  · exact Keeps.refl s

/-! ### The arbiter's choice -/

theorem activate_quiet (s : Part) (p : PortIx) (a : Attempt) (c : Context) : Quiet s (s.activate p a c) := by
  unfold Part.activate
  split
  · exact Quiet.unfenceTwo rfl
  · exact Quiet.unfenceFour rfl

/-- A candidate's context is the one its card holds. -/
theorem Part.mem_candidates {s : Part} {p : PortIx} {x : Candidate} :
    x ∈ s.candidates p ↔ s.ctx x.card = some x.ctx ∧ x.ctx.phase = .waiting p ∧ s.underGuard x.ctx.resolved = false := by
  unfold Part.candidates
  rw [List.mem_filterMap]
  constructor
  · rintro ⟨n, hn, hx⟩
    obtain ⟨c, hc, hlist⟩ := Part.mem_readyCards.mp hn
    rw [hc] at hx
    simp only at hx
    split at hx
    · cases hx
    · rename_i hguard
      cases hx
      exact ⟨hc, by simpa [Context.onList] using hlist, by simpa using hguard⟩
  · rintro ⟨hc, hphase, hguard⟩
    refine ⟨x.card, Part.mem_readyCards.mpr ⟨x.ctx, hc, by simp [Context.onList, hphase]⟩, ?_⟩
    rw [hc]
    simp [hguard]

/-- The arbiter chooses among its candidates. -/
theorem Part.best_mem {s : Part} {xs : List Candidate} {x : Candidate} (h : s.best xs = some x) : x ∈ xs := by
  induction xs with
  | nil => cases h
  | cons a rest ih =>
    unfold Part.best at h
    split at h
    · cases h
      exact List.mem_cons_self
    · rename_i b hb
      split at h
      · cases h
        exact List.mem_cons_self
      · cases h
        exact List.mem_cons_of_mem _ (ih hb)

theorem carryOutChoice_keeps {s : Part} {p : PortIx} {x : Candidate} (hctx : s.ctx x.card = some x.ctx) :
    Keeps s (s.carryOutChoice p x) := by
  have hput : ∀ {t : Part} (c : Context), Quiet s t → c.debt = x.ctx.debt → c.offFenced t → Keeps s (t.setCtx x.card (some c)) :=
    fun {t} c ht hdebt hoff => ht.keeps.thenCard hctx ((cardRule_closed x.card Always).put t trivial)
      (fun h => DAt.set (debtOk_debtLike.same h hdebt)) (fun _ => Part.offFenced_setCtx hoff)
  unfold Part.carryOutChoice
  split
  · rename_i code _
    obtain ⟨hrule, hdebt, hoff⟩ := endInstance_rule .plain s x.card x.ctx code [] .none
    exact Keeps.card hctx hrule hdebt (fun _ => hoff)
  · rename_i r hr
    split
    · refine hput _ (Quiet.refl s) rfl (fun q hq => ?_)
      cases hq
      exact Part.resolve_portFenced hr
    · unfold Part.beginAttempt
      simp only
      refine (hput (x.ctx.begun r) ?_ rfl (fun q hq => by cases hq)).trans (activate_quiet _ _ _ _).keeps
      split
      · exact Quiet.refl s
      · exact ⟨rfl, fun _ => id, id, id⟩

theorem arbiterChoice_keeps (s : Part) (p : PortIx) : Keeps s (s.arbiterChoice p) := by
  unfold Part.arbiterChoice
  split
  · split
    · exact Keeps.refl s
    · rename_i x hx
      exact carryOutChoice_keeps (Part.mem_candidates.mp (Part.best_mem hx)).1
  · exact Keeps.refl s

end Sys2Proof.Machine
end

section
/-! The walk over the commands goes on: Run Control, the Intake Unit and the Host Access Port; every step keeps the bounds and the ready
lists of fenced ports empty (R48, R56, R65, R71, R106, R121, R140, R149, R175). -/

namespace Sys2Proof.Machine

/-! ### Sweeps -/

theorem TwoWire.noteLimit_isFenced (t : TwoWire) (now : Time) (limit : Nat) : (t.noteLimit now limit).isFenced = t.isFenced := by
  unfold TwoWire.noteLimit TwoWire.isFenced
  cases hstate : t.state <;> simp [hstate]

theorem beginSweep_quiet (s : Part) : Quiet s s.beginSweep := by
  have hheader : Quiet s ({ s with intake := { s.intake with header := s.headerRead } } : Part) := ⟨rfl, fun _ => id, id, id⟩
  have hnote := hheader.trans (Quiet.mapTwo _ (f := fun t => t.noteLimit s.now s.withHeaderRead.holdLimitUs)
    (fun t ht => by rwa [TwoWire.noteLimit_isFenced] at ht))
  rw [Part.beginSweep_eq]
  exact hnote.trans ⟨rfl, fun _ => id, id, id⟩

theorem nudge_quiet (s : Part) : Quiet s s.nudge := by
  unfold Part.nudge
  split
  · split
    · exact beginSweep_quiet s
    · exact ⟨rfl, fun _ => id, id, id⟩
  · exact Quiet.refl s

theorem sweepTimerExpired_quiet (s : Part) : Quiet s s.sweepTimerExpired := by
  unfold Part.sweepTimerExpired
  split
  · exact beginSweep_quiet s
  · exact Quiet.refl s

theorem visitEnded_quiet (s : Part) (n : CardIx) : Quiet s (s.visitEnded n) := by
  unfold Part.visitEnded
  split
  · exact Quiet.trans (t := { s with intake := { s.intake with pos := none, pending := false } }) ⟨rfl, fun _ => id, id, id⟩
      (Quiet.tryStop _)
  · split
    · exact ⟨rfl, fun _ => id, id, id⟩
    · unfold Part.completeSweep
      simp only
      split
      · exact (beginSweep_quiet _).after ⟨rfl, fun _ => id, id, id⟩
      · exact ⟨rfl, fun _ => id, id, id⟩

theorem endVisit_quiet (s : Part) (n : CardIx) : Quiet s (s.endVisit n) := by
  unfold Part.endVisit
  split
  · exact visitEnded_quiet s n
  · exact Quiet.refl s

/-! ### Cards in a visit -/

theorem freshFields_quiet (s : Part) (n : CardIx) (retried : Bool) : Quiet s (s.freshFields n retried) := by
  rw [Part.freshFields_eq]
  refine Quiet.report ?_ ?_ <;> rw [Reports.fresh_eq]

theorem endControl_quiet (s : Part) (n : CardIx) (g : Byte) (retried : Bool) (state : ProgressState) (result : ResultCode) :
    Quiet s (s.endControl n g retried state result) :=
  Quiet.trans (t := s.setWaiting n none) ⟨rfl, fun _ => id, id, id⟩
    ((freshFields_quiet _ n retried).trans (Quiet.report rfl rfl))

theorem withdrawCard_keeps (s : Part) (n : CardIx) : Keeps s (s.withdrawCard n) := by
  unfold Part.withdrawCard
  split
  · rename_i c hctx
    have hend := endCard_keeps hctx c .withdrawn .withdrawnByOrder
    split
    · unfold Part.withdrawActive
      cases hphase : c.phase with
      | running =>
        exact Keeps.card hctx ((cardRule_closed n Always).put s trivial) (fun h => DAt.set (debtOk_debtLike.same h rfl))
          (fun h => Part.offFenced_setCtx (Context.offFenced_samePhase h hphase.symm))
      | sleeping | waiting _ | retryWait => exact hend
    · exact hend
  · exact Quiet.keeps ⟨rfl, fun _ => id, id, id⟩

theorem reject_quiet (s : Part) (n : CardIx) (g : Byte) (retried : Bool) (code : ResultCode) : Quiet s (s.reject n g retried code) :=
  let u := (s.request (rejectedRecord s.now n g code)).setWaiting n none
  have hfree : Quiet s u := (Quiet.request s _).trans ⟨rfl, fun _ => id, id, id⟩
  have hend : ∀ t : Part, Quiet t (t.report (fun r => r.endWord n (bareWord g .rejected code))) := fun _ => Quiet.report rfl rfl
  hfree.trans ((freshFields_quiet u n retried).trans (hend _))

theorem enterWaiting_quiet (s : Part) (n : CardIx) (g : Byte) (retried : Bool) (b : Bank) : Quiet s (s.enterWaiting n g retried b) := by
  have hset : Quiet s (s.setWaiting n (some b)) := ⟨rfl, fun _ => id, id, id⟩
  unfold Part.enterWaiting
  simp only
  split
  · exact hset
  · have hword : ∀ t : Part, Quiet t (t.report (fun r => r.writeProgress n (bareWord g .waiting .none))) :=
      fun _ => Quiet.report rfl rfl
    exact hset.trans ((freshFields_quiet _ n false).trans ((hword _).trans (Quiet.tell _ .backlog)))

theorem DeviceUnit.enter_get (u : DeviceUnit) (d b e : DevIx) : (u.enter d b).get e = u.get e := by
  unfold DeviceUnit.enter
  split <;> rfl

theorem substitute_keeps (s : Part) (n : CardIx) (g : Byte) (d : DevIx) (aux : Nat) : Keeps s (s.substitute n g d aux).part := by
  unfold Part.substitute
  split
  · exact Keeps.refl s
  · rename_i b _
    have hchange : Quiet s (s.changeDevice (s.dev.enter d b) d) :=
      Quiet.changeDevice (fun h e => by rw [DeviceUnit.enter_get]; exact h e) d
    split
    · exact Keeps.refl s
    · split
      · simp only
        split
        · exact hchange.keeps.trans (reresolveWhere_keeps _ _)
        · exact hchange.keeps
      · exact (Quiet.request s _).keeps

theorem restore_keeps (s : Part) (d : DevIx) : Keeps s (s.restore d).part := by
  unfold Part.restore
  split
  · refine (Quiet.changeDevice (fun h e => ?_) d).keeps.trans (reresolveWhere_keeps _ _)
    exact DeviceUnit.faults_put (u := s.dev) (r := DeviceRecord.reset) (fun _ => Nat.zero_le _) h e
  · exact Keeps.refl s

theorem clearFour_quiet (s : Part) (q : FourIx) : Quiet s (s.clearFour q).part := by
  unfold Part.clearFour
  simp only
  split
  · split
    · exact Quiet.refl s
    · exact Quiet.unfenceFour (s.fourIdle_isFenced _)
  · exact Quiet.refl s

theorem clearTwo_quiet (s : Part) (n : CardIx) (g : Byte) (retried : Bool) (p : TwoIx) (dataHigh : Bool) :
    Quiet s (s.clearTwo n g retried p dataHigh) := by
  unfold Part.clearTwo
  simp only
  split
  · rename_i hfenced
    split
    · exact (Quiet.unfenceTwo (s.twoIdle_isFenced _)).trans (endControl_quiet _ _ _ _ _ _)
    · exact (Quiet.setTwo (fun _ => hfenced)).trans ⟨rfl, fun _ => id, id, id⟩
  · exact endControl_quiet s n g retried _ _

theorem portClear_quiet (s : Part) (n : CardIx) (g : Byte) (retried : Bool) (port : PortIx) (dataHigh : Bool) :
    Quiet s (s.portClear n g retried port dataHigh) := by
  unfold Part.portClear
  split
  · exact clearTwo_quiet s n g retried _ dataHigh
  · exact (clearFour_quiet s _).trans (endControl_quiet _ _ _ _ _ _)

/-- What a step as a whole keeps: the bounds together, and the ready lists of fenced ports empty. -/
structure Sound (s t : Part) : Prop where
  bounded : s.bounded → t.bounded
  lists : s.fencedListsEmpty → t.fencedListsEmpty

theorem Sound.trans {s t u : Part} (h : Sound s t) (h' : Sound t u) : Sound s u :=
  ⟨fun hs => h'.bounded (h.bounded hs), fun hs => h'.lists (h.lists hs)⟩

theorem Keeps.sound {s t : Part} (h : Keeps s t) : Sound s t where
  bounded := by
    rintro ⟨hreports, hcounts, hdebts, hcontexts⟩
    exact ⟨h.reports hreports, h.counts hcounts, h.debts hdebts, (Part.heldContexts_le h.held).trans hcontexts⟩
  lists := h.lists

/-- One more card may hold a context. -/
theorem Part.heldContexts_setCtx_le (s : Part) (n : CardIx) (c : Option Context) :
    (s.setCtx n c).heldContexts ≤ s.heldContexts + 1 := by
  have hn : n.val < s.ctxs.toList.length := by rw [Vector.length_toList]; exact n.isLt
  unfold Part.heldContexts
  rw [Part.setCtx_ctxs, Vector.toList_set, List.countP_set hn]
  have hone : (if c.isSome = true then 1 else 0) ≤ 1 := by split <;> omega
  omega

/-- A context granted (R39, R48). -/
theorem accept_sound {s : Part} (hfree : s.heldContexts < Config.contexts) (n : CardIx) (g : Byte) (retried : Bool)
    (kind : TransferKind) (d : DevIx) (r : Request) : Sound s (s.accept n g retried kind d r) := by
  let c := s.newContext g kind d r
  have hset : Sound s ((s.setWaiting n none).setCtx n (some c)) := by
    refine ⟨fun ⟨hreports, hcounts, hdebts, _⟩ => ⟨hreports, hcounts, fun m x hx => ?_, ?_⟩, fun hs => ?_⟩
    · by_cases hm : m = n
      · rw [hm, Part.setCtx_ctx_self] at hx
        cases hx
        exact Nat.zero_le _
      · rw [Part.setCtx_ctx_other _ _ hm] at hx
        exact hdebts m x hx
    · have hle := Part.heldContexts_setCtx_le (s.setWaiting n none) n (some c)
      have hsame : (s.setWaiting n none).heldContexts = s.heldContexts := rfl
      unfold Part.contextsBounded
      omega
    · rw [Part.fencedListsEmpty_iff] at hs ⊢
      intro m
      by_cases hm : m = n
      · rw [hm]
        exact Part.offFenced_setCtx (Context.offFenced_sleeping rfl _)
      · intro x hx
        rw [Part.setCtx_ctx_other _ _ hm] at hx
        exact hs m x hx
  have hlive : ∀ t : Part, Quiet t (t.writeLive n c) := fun t => ⟨rfl, fun _ => id, id, id⟩
  exact hset.trans (((freshFields_quiet _ n retried).trans (hlive _)).keeps.trans (finish_keeps _ _ _ _)).sound

theorem takeTransfer_sound (s : Part) (n : CardIx) (g : Byte) (retried : Bool) (kind : TransferKind) (d : DevIx) (r : Request) :
    Sound s (s.takeTransfer n g retried kind d r) := by
  unfold Part.takeTransfer
  split
  · rename_i hfree
    exact accept_sound hfree n g retried kind d r
  · exact (enterWaiting_quiet s n g retried _).keeps.sound

theorem clearDone_quiet (s : Part) (n : CardIx) : Quiet s (s.report (fun r => r.clearDone n)) := Quiet.report rfl rfl

theorem intakeCard_sound (s : Part) (n : CardIx) (g : Byte) (retried dataHigh : Bool) :
    Sound s (s.intakeCard n g retried dataHigh) := by
  have hclear := (clearDone_quiet s n).keeps
  unfold Part.intakeCard
  simp only
  split
  · exact (hclear.trans (reject_quiet _ n g retried _).keeps).sound
  · exact hclear.sound.trans (takeTransfer_sound _ n g retried _ _ _)
  · exact (hclear.trans ((substitute_keeps _ n g _ _).trans (endControl_quiet _ _ _ _ _ _).keeps)).sound
  · exact (hclear.trans ((restore_keeps _ _).trans (endControl_quiet _ _ _ _ _ _).keeps)).sound
  · exact (hclear.trans (portClear_quiet _ n g retried _ dataHigh).keeps).sound

theorem visitCard_sound (s : Part) (n : CardIx) (dataHigh : Bool) : Sound s (s.visitCard n dataHigh) := by
  unfold Part.visitCard
  split
  · exact (Keeps.refl s).sound
  · exact (clearDone_quiet s n).keeps.sound
  · exact (withdrawCard_keeps s n).sound
  · exact intakeCard_sound s n _ _ dataHigh

theorem visit_sound (s : Part) (dataHigh : Bool) : Sound s (s.visit dataHigh) := by
  unfold Part.visit
  split
  · exact (Keeps.refl s).sound
  · split
    · exact (visitCard_sound s _ dataHigh).trans (endVisit_quiet _ _).keeps.sound
    · exact (Keeps.refl s).sound

/-! ### Resets, the reference and attach -/

theorem unitsReset_keeps (s : Part) : Keeps s s.unitsReset := by
  have hctx : ∀ n, s.unitsReset.ctx n = none := fun n => Vector.getElem_replicate _
  refine ⟨fun _ => ⟨Nat.zero_le _, Nat.zero_le _⟩, fun hs => ⟨fun d => ?_, hs.2⟩, fun _ n c hc => ?_, fun n hn => ?_, fun _ => ?_⟩
  · have hreset : s.unitsReset.dev.get d = DeviceRecord.reset := Vector.getElem_replicate _
    rw [hreset]
    exact Nat.zero_le _
  · rw [hctx] at hc
    cases hc
  · rw [hctx] at hn
    cases hn
  · exact (Part.fencedListsEmpty_iff _).mpr (fun n => Part.offFenced_free (hctx n))

theorem softReset_keeps (s : Part) : Keeps s s.softReset := by
  refine Keeps.trans (t := s.abandonClearing) ?_ (unitsReset_keeps _)
  unfold Part.abandonClearing
  split
  · exact Quiet.keeps ⟨rfl, fun _ => id, id, id⟩
  · exact Keeps.refl s

theorem powerOnReset_keeps (s : Part) : Keeps s s.powerOnReset :=
  (unitsReset_keeps s).trans (Quiet.keeps ⟨rfl, fun _ => id, fun hs => ⟨hs.1, Nat.zero_le _⟩, id⟩)

theorem releaseReset_quiet (s : Part) : Quiet s s.releaseReset := by
  unfold Part.releaseReset
  split
  · exact ⟨rfl, fun _ => id, id, id⟩
  · exact Quiet.refl s

theorem TwoWire.markFallback_isFenced (t : TwoWire) : t.markFallback.isFenced = t.isFenced := by
  unfold TwoWire.markFallback
  cases hstate : t.state with
  | idle | held | active _ _ | fenced => simp [TwoWire.isFenced, hstate]
  | recovering r => cases hcause : r.cause <;> simp [TwoWire.isFenced, hstate, hcause]

theorem FourWire.markFallback_isFenced (t : FourWire) : t.markFallback.isFenced = t.isFenced := by
  unfold FourWire.markFallback FourWire.isFenced
  cases hstate : t.state <;> simp [hstate]

theorem refLost_quiet (s : Part) : Quiet s s.refLost := by
  unfold Part.refLost
  split
  · have htwo := Quiet.mapTwo s (f := TwoWire.markFallback) (fun t ht => by rwa [TwoWire.markFallback_isFenced] at ht)
    have hports := htwo.trans (Quiet.mapFour _ (g := FourWire.markFallback)
      (fun t ht => by rwa [FourWire.markFallback_isFenced] at ht))
    refine (hports.trans (u := { s with
      time := { s.time with source := .fallback, runCount := 0, edgeGap := edgeGapLimit, boundary := false }
      two := s.two.map TwoWire.markFallback, four := s.four.map FourWire.markFallback })
      ⟨rfl, fun _ => id, fun hs => ⟨hs.1, Nat.zero_le _⟩, id⟩).trans ((Quiet.request _ _).trans (Quiet.tell _ .clock))
  · exact Quiet.refl s

theorem refBack_quiet (s : Part) : Quiet s s.refBack := by
  unfold Part.refBack
  split
  · exact ((Quiet.tell _ .clock).after (Quiet.request _ _)).after ⟨rfl, fun _ => id, id, id⟩
  · exact Quiet.refl s

/-- An edge leaves the run count within its bound (R176). -/
theorem runCountAfter_le {k : Nat} (h : k ≤ Config.qualifyEdges) (spacing : Option Nat) :
    runCountAfter k spacing ≤ Config.qualifyEdges := by
  unfold runCountAfter
  split
  · exact h
  · split
    · exact Nat.min_le_left _ _
    · decide

theorem referenceEdge_quiet (s : Part) (spacing : Option Nat) : Quiet s (s.referenceEdge spacing) := by
  unfold Part.referenceEdge
  split
  · exact ⟨rfl, fun _ => id, id, id⟩
  · exact ⟨rfl, fun _ => id, fun hs => ⟨hs.1, runCountAfter_le hs.2 spacing⟩, id⟩

theorem referenceGap_quiet (s : Part) : Quiet s s.referenceGap := by
  unfold Part.referenceGap
  split
  · refine ⟨rfl, fun _ => id, fun hs => ⟨hs.1, ?_⟩, id⟩
    simp only
    split
    · exact hs.2
    · exact Nat.zero_le _
  · exact Quiet.refl s

theorem unlessReset_keeps {f : Part → Part} (hf : ∀ s, Keeps s (f s)) (s : Part) : Keeps s (s.unlessReset f) := by
  unfold Part.unlessReset
  split
  · exact Keeps.refl s
  · exact hf s

theorem quiesce_quiet (s : Part) : Quiet s s.quiesce := (Quiet.tryStop _).after ⟨rfl, fun _ => id, id, id⟩

theorem beginAttach_quiet (s : Part) : Quiet s s.beginAttach := by
  unfold Part.beginAttach
  simp only
  split
  · exact ⟨rfl, fun _ => id, id, id⟩
  · exact ⟨rfl, fun _ => id, id, fun hs => ⟨Nat.zero_le _, hs.2⟩⟩

theorem portsTakeUp_quiet (s : Part) : Quiet s s.portsTakeUp := by
  have htwo := Quiet.mapTwo s (f := fun t => if t.state = .idle then s.twoIdle t else t) (fun t ht => by
    split at ht
    · rw [s.twoIdle_isFenced] at ht
      cases ht
    · exact ht)
  exact htwo.trans (Quiet.mapFour _ (g := fun t => if t.state = .idle then s.fourIdle t else t) (fun t ht => by
    split at ht
    · rw [s.fourIdle_isFenced] at ht
      cases ht
    · exact ht))

theorem tryFinishAttach_quiet (s : Part) : Quiet s s.tryFinishAttach := by
  unfold Part.tryFinishAttach
  split
  · unfold Part.finishAttach
    simp only
    have hrun : Quiet s (Part.portsTakeUp (Part.tell { s with run := { s.run with state := .running, attach := none, stopHeld := false } }
        .runState)) := (portsTakeUp_quiet _).after ⟨rfl, fun _ => id, id, id⟩
    split
    · exact hrun.trans (quiesce_quiet _)
    · exact hrun.trans (beginSweep_quiet _)
  · exact Quiet.refl s

theorem attachCheck_quiet (s : Part) (p : TwoIx) (dataHigh : Bool) : Quiet s (s.attachCheck p dataHigh) := by
  unfold Part.attachCheck
  split
  · exact Quiet.refl s
  · exact Quiet.unfenceTwo rfl

theorem clearingEnd_quiet (s : Part) (data0High data1High : Bool) : Quiet s (s.clearingEnd data0High data1High) := by
  unfold Part.clearingEnd
  split
  · have hclear : Quiet s s.attachClear := ⟨rfl, fun _ => id, id, id⟩
    exact (hclear.trans (attachCheck_quiet _ 0 _)).trans ((attachCheck_quiet _ 1 _).trans (tryFinishAttach_quiet _))
  · exact Quiet.refl s

theorem resume_keeps (s : Part) : Keeps s s.resume := by
  have hrun : Quiet s (Part.tell { s with run := { s.run with state := .running } } .runState) := ⟨rfl, fun _ => id, id, id⟩
  exact hrun.keeps.trans ((Keeps.foldl (fun t n => finish_keeps _ t n _) _ _).trans (beginSweep_quiet _).keeps)

theorem runCommand_keeps (s : Part) : Keeps s s.runCommand := by
  unfold Part.runCommand
  split
  · exact (beginAttach_quiet s).keeps
  · exact (beginAttach_quiet s).keeps
  · exact resume_keeps s
  all_goals exact Keeps.refl s

theorem stopCommand_quiet (s : Part) : Quiet s s.stopCommand := by
  unfold Part.stopCommand
  split
  · exact quiesce_quiet s
  · exact ⟨rfl, fun _ => id, id, id⟩
  all_goals exact Quiet.refl s

/-! ### Recoveries -/

theorem answerClear_quiet (s : Part) (cleared : Bool) : Quiet s (s.answerClear cleared) := by
  unfold Part.answerClear
  split
  · exact Quiet.refl s
  · have hcontrol : Quiet s ({ s with intake := { s.intake with control := none } } : Part) := ⟨rfl, fun _ => id, id, id⟩
    simp only
    split <;> exact (hcontrol.trans (endControl_quiet _ _ _ _ _ _)).trans (endVisit_quiet _ _)

theorem afterRecovery_keeps (s : Part) (p : TwoIx) (cause : RecoveryCause) (stuck : Bool) : Keeps s (s.afterRecovery p cause stuck) := by
  unfold Part.afterRecovery
  split
  · exact attemptEnded_keeps s _ _ _ _ _
  · exact (tryFinishAttach_quiet s).keeps
  · exact (answerClear_quiet s _).keeps

theorem recoveryDone_keeps (s : Part) (p : TwoIx) (pulses : Nat) : Keeps s (s.recoveryDone p pulses) := by
  unfold Part.recoveryDone
  simp only
  split
  · exact Keeps.refl s
  · split
    · exact ((Quiet.unfenceTwo (s.twoIdle_isFenced _)).trans (Quiet.request _ _)).keeps.trans (afterRecovery_keeps _ _ _ _)
    · exact Keeps.refl s

/-- A port in the recovery of a PORT_CLEAR is fenced already (R45, R108). -/
theorem TwoWire.isFenced_of_portClear {t : TwoWire} {r : Recovery} (h : t.recovery = some r) (hcause : r.cause = .portClear) :
    t.isFenced = true := by
  unfold TwoWire.recovery at h
  split at h
  · rename_i hstate
    cases h
    simp [TwoWire.isFenced, hstate, hcause]
  all_goals cases h

theorem portStuck_keeps (s : Part) (p : TwoIx) (reason : StuckBy) (dataHigh : Bool) : Keeps s (s.portStuck p reason dataHigh) := by
  unfold Part.portStuck
  simp only
  split
  · exact Keeps.refl s
  · rename_i r hr
    split
    · refine Keeps.trans ?_ (afterRecovery_keeps _ _ _ _)
      unfold Part.stuckEffects
      split
      · exact fenceTwo_keeps _
      · exact fenceTwo_keeps _
      · rename_i hcause
        exact ((Quiet.setTwo (fun _ => TwoWire.isFenced_of_portClear hr hcause)).trans (Quiet.request _ _)).keeps
    · exact Keeps.refl s

/-! ### The Host Access Port -/

theorem dropWrite_quiet (s : Part) : Quiet s s.dropWrite := by
  have hzeroed : Quiet s s.mayHaveZeroed := by
    unfold Part.mayHaveZeroed
    split
    · exact ⟨rfl, fun _ => id, id, id⟩
    · exact Quiet.refl s
  unfold Part.dropWrite
  simp only
  split
  · exact hzeroed
  · exact hzeroed.trans ⟨rfl, fun _ => id, id, id⟩

theorem hostWrite_quiet (s : Part) (offset : Nat) (value : Word) (enables : BitVec 4) :
    Quiet s (s.hostWrite offset value enables) := by
  unfold Part.hostWrite
  split
  · exact Quiet.refl s
  · split
    · exact dropWrite_quiet s
    all_goals exact Quiet.report rfl rfl

theorem Reports.writeCause_bounds {r : Reports} (h : r.queue.length ≤ Config.queueEntries ∧ r.tally ≤ 255) (value : Word)
    (enables : BitVec 4) :
    (r.writeCause value enables).queue.length ≤ Config.queueEntries ∧ (r.writeCause value enables).tally ≤ 255 := by
  unfold Reports.writeCause
  generalize (if enables.getLsbD 0 then value.byte 0 else 0#8) = w
  cases hw : w.getLsbD Latch.sample.bit with
  | true => simpa [hw] using h.1
  | false => simpa [hw] using h

theorem Reports.takeRequest_bounds {r : Reports} (h : r.queue.length ≤ Config.queueEntries ∧ r.tally ≤ 255) :
    r.takeRequest.queue.length ≤ Config.queueEntries ∧ r.takeRequest.tally ≤ 255 := by
  unfold Reports.takeRequest
  split
  · exact h
  · rename_i f rest hq
    have hrest : rest.length ≤ Config.queueEntries := by
      have hle := h.1
      rw [hq, List.length_cons] at hle
      omega
    simp only
    split
    · obtain ⟨_, hqueue, htally, _⟩ := Reports.appendRecord_frame { r with queue := rest } f
      rw [hqueue, htally]
      exact ⟨hrest, h.2⟩
    · obtain ⟨_, hqueue, htally, _⟩ := Reports.loseRecord_frame { r with queue := rest }
      rw [hqueue, htally]
      exact ⟨hrest, h.2⟩

theorem carryOut_keeps (s : Part) (i : Instr) : Keeps s (s.carryOut i) := by
  cases i
  case hostWrite => exact (hostWrite_quiet s _ _ _).keeps
  case run => exact runCommand_keeps s
  case stop => exact (stopCommand_quiet s).keeps
  case reset => exact softReset_keeps s
  case nudge => exact (nudge_quiet s).keeps
  case causeWrite => exact Quiet.keeps ⟨rfl, fun _ => id, id, fun hs => Reports.writeCause_bounds hs _ _⟩
  case enableWrite value enables =>
    have hframe : (s.rep.writeEnable value enables).queue = s.rep.queue ∧ (s.rep.writeEnable value enables).tally = s.rep.tally := by
      unfold Reports.writeEnable
      split <;> exact ⟨rfl, rfl⟩
    exact (Quiet.report (f := fun r => r.writeEnable value enables) hframe.1 hframe.2).keeps
  all_goals exact Keeps.refl s

theorem hostAccess_keeps (s : Part) (i : Instr) : Keeps s (s.hostAccess i) := by
  unfold Part.hostAccess
  split
  · exact Quiet.keeps ⟨rfl, fun _ => id, id, id⟩
  · exact carryOut_keeps s i

theorem foldl_carryOut_keeps (is : List Instr) : ∀ s : Part, Keeps s (is.foldl Part.carryOut s) := by
  induction is with
  | nil => exact Keeps.refl
  | cons i is ih => exact fun s => (carryOut_keeps s i).trans (ih _)

theorem clearEnd_keeps (s : Part) : Keeps s s.clearEnd := by
  unfold Part.clearEnd
  split
  · exact (foldl_carryOut_keeps _ _).after (Quiet.keeps ⟨rfl, fun _ => id, id, id⟩)
  · exact Keeps.refl s

/-! ### Every command -/

/-- Every command that answers a next state keeps the bounds, and the ready lists of fenced ports empty. -/
theorem exec_sound {i : Instr} {s t : State} (h : exec i s = .next t) : Sound s.part t.part := by
  cases i with
  | hostWrite offset value enables =>
    simp only [exec, execHostWrite] at h
    split at h
    · cases h; exact (hostAccess_keeps _ _).sound
    · cases h
  | registerWriteIgnored offset value enables =>
    simp only [exec, execRegisterWriteIgnored] at h
    split at h
    · cases h; exact (hostAccess_keeps _ _).sound
    · cases h
  | run | stop | reset | nudge | causeWrite | enableWrite => cases h; exact (hostAccess_keeps _ _).sound
  | visit => cases h; exact visit_sound _ _
  | powerOnReset => cases h; exact (powerOnReset_keeps _).sound
  | powerOnClearEnd => cases h; exact (clearEnd_keeps _).sound
  | timeCountTick => cases h; exact (unlessReset_keeps (f := Part.tick) (fun _ => Quiet.keeps ⟨rfl, fun _ => id, id, id⟩) _).sound
  | attachClearingEnd => cases h; exact (clearingEnd_quiet _ _ _).keeps.sound
  | sweepTimerExpiry => cases h; exact (sweepTimerExpired_quiet _).keeps.sound
  | dueArrival => cases h; exact (dueArrival_keeps _ _).sound
  | windowExpiry | gapExpiry => cases h; exact (timedCommand_keeps _ _ _).sound
  | arbiterChoice => cases h; exact (arbiterChoice_keeps _ _).sound
  | guardExpiry d =>
    cases h
    dsimp only
    split
    · exact (Quiet.putDevice (r := { s.part.dev.get d with guard := none }) (fun hs => hs d)).keeps.sound
    · exact (Keeps.refl _).sound
  | driveStartCondition => cases h; exact (driveStart_quiet _ _ _).keeps.sound
  | startCondition p => cases h; exact (unlessReset_keeps (fun u => startSeen_keeps u p) _).sound
  | stopCondition p => cases h; exact (unlessReset_keeps (fun u => (stopSeen_quiet u p).keeps) _).sound
  | busFreeTime high => cases h; exact (unlessReset_keeps (fun u => (busFree_quiet u high.port high.interval).keeps) _).sound
  | busLineFall p =>
    cases h
    exact (unlessReset_keeps
      (fun u => (Quiet.sameTwo (s := u) (p := p) (t := { u.twoAt p with measureFrom := u.now }) rfl).keeps) _).sound
  | twoWireDone => cases h; exact (twoDone_keeps _ _ _).sound
  | addressNack => cases h; exact (refusedByte_keeps _ _ _ _ _ _ _).sound
  | dataNack => cases h; exact (dataNack_keeps _ _ _ _ _ _).sound
  | checkMismatch => cases h; exact (checkMismatch_keeps _ _ _ _ _ _).sound
  | arbLost => cases h; exact (arbLost_keeps _ _ _ _ _).sound
  | busError => cases h; exact (busError_keeps _ _ _ _ _).sound
  | stretchTimeout => cases h; exact (stretchTimeout_quiet _ _ _ _ _ _).keeps.sound
  | recoveryDone => cases h; exact (recoveryDone_keeps _ _ _).sound
  | portStuck => cases h; exact (portStuck_keeps _ _ _ _).sound
  | holdTimerExpiry => cases h; exact (holdExpired_keeps _ _ _).sound
  | selectAssert => cases h; exact (selectAssert_quiet _ _ _ _).keeps.sound
  | selectLeadEnd => cases h; exact (selectLeadEnd_quiet _ _ _).keeps.sound
  | fourWireDone => cases h; exact (fourDone_keeps _ _ _).sound
  | fourWireCheckMismatch => cases h; exact (fourCheckMismatch_keeps _ _ _ _ _ _).sound
  | senseAssertion => cases h; exact (senseAsserted_keeps _ _ _ _ _).sound
  | senseDeassertion => cases h; exact (senseDeasserted_quiet _ _).keeps.sound
  | senseHoldExpiry => cases h; exact (senseHoldExpired_keeps _ _ _).sound
  | append =>
    cases h
    dsimp only
    split
    · exact Keeps.sound (Quiet.keeps ⟨rfl, fun _ => id, id, Reports.takeRequest_bounds⟩)
    · exact (Keeps.refl _).sound
  | holdoffExpiry =>
    cases h
    dsimp only
    split
    · exact Keeps.sound (Quiet.keeps ⟨rfl, fun _ => id, id, id⟩)
    · exact (Keeps.refl _).sound
  | refLost => cases h; exact (refLost_quiet _).keeps.sound
  | refBack => cases h; exact (refBack_quiet _).keeps.sound
  | resetNRelease => cases h; exact (releaseReset_quiet _).keeps.sound
  | referenceEdge spacing => cases h; exact (unlessReset_keeps (fun u => (referenceEdge_quiet u spacing).keeps) _).sound
  | referenceGap => cases h; exact (unlessReset_keeps (fun u => (referenceGap_quiet u).keeps) _).sound

/-- A step idles, or carries out the front command of the queue. -/
theorem step_sound {s t : State} (h : step s = .next t) : Sound s.part t.part := by
  unfold step at h
  split at h
  · cases h
    exact (Keeps.refl _).sound
  · rename_i i rest _
    exact exec_sound (i := i) (s := { s with pending := rest }) h

/-- Settles O56: every command keeps each of the bounds, and one more context is granted only where fewer than 32 are held. -/
theorem stepKeepsBounds : Obligations.StepKeepsBounds := fun _ _ hs h => (step_sound h).bounded hs

/-- Settles O59: a card joins only the list of a port that is not fenced, and the fence of a port empties its list. -/
theorem stepKeepsFencedListsEmpty : Obligations.StepKeepsFencedListsEmpty := fun _ _ hs h => (step_sound h).lists hs

end Sys2Proof.Machine
end

section
/-! The timed events of cards: the time count, due arrivals, overtakes, windows and retry gaps (R46, R52 to R56, R61). -/

namespace Sys2Proof.Machine

/-- Settles O6: a tick outside RESET_N is the advance of the count and the boundary mark. -/
theorem tickAdvancesTimeCount : Obligations.TickAdvancesTimeCount := by
  intro s hreset
  change Host.Outcome.next { s with part := s.part.unlessReset Part.tick } = _
  rw [Part.unlessReset, if_neg (by simp [hreset])]
  rfl

/-! ### Taking a timed event -/

theorem Part.takesEvents_of {s : Part} (h : s.run.state = .running ∨ s.run.state = .quiescing) : s.takesEvents = true := by
  rcases h with h | h <;> simp [Part.takesEvents, h]

/-- An armed event whose time has come is due (R47). -/
theorem Part.eventDue_of {s : Part} {c : Context} {e : TimedEvent} {t : Time} (harmed : c.armedAt e = some t)
    (hdue : Time.atOrAfter s.time.count t = true) : s.eventDue c e = true := by
  rw [Part.eventDue, harmed]
  exact hdue

/-- A timed event's own command takes it where it is due (R47). -/
theorem Part.timedCommand_due {s : Part} {n : CardIx} {c : Context} {e : TimedEvent} (hs : s.takesEvents = true)
    (hctx : s.ctx n = some c) (hdue : s.eventDue c e = true) :
    s.timedCommand n e = Part.finish .plain n (s.takeEvent .plain n c .none e) := by
  simp [Part.timedCommand, hctx, hs, hdue]

/-- No work is left for a card that has no next event. -/
theorem Part.finish_settled {s : Part} {m : PassMode} {n : CardIx} {c : Context} {f : Fresh} (hctx : s.ctx n = some c)
    (hnext : s.nextEvent m c f = none) : Part.finish m n (s, .settle f) = s := by
  refine Part.finish_idle ?_
  rw [Part.workOnce_settle hctx, hnext]
  rfl

/-- Where arrivals alone may be taken, a card that is not SLEEPING has no next event before its next arrival (R55). -/
theorem Part.nextEvent_arrivals_none {s : Part} {m : PassMode} {c : Context} (hp : c.phase ≠ .sleeping)
    (harr : c.armed = true → s.dueBy c.nextArrival = false) : s.nextEvent m c { Fresh.none with arrival := true } = none := by
  refine Part.nextEvent_eq_none (fun e he => ?_)
  cases e with
  | gap | window => cases he
  | arrival => simp [Part.eventDue, Context.armedAt, hp, Part.expired]
  | overtake =>
    unfold Part.eventDue Context.armedAt
    simp only
    split
    · rename_i h
      exact harr h.2.1
    · rfl

/-- Such a card's work rests at once. -/
theorem Part.finish_arrivals {t : Part} {m : PassMode} {n : CardIx} {c : Context} (hp : c.phase ≠ .sleeping)
    (harr : c.armed = true → t.dueBy c.nextArrival = false) :
    Part.finish m n (t.setCtx n (some c), .settle { Fresh.none with arrival := true }) = t.setCtx n (some c) :=
  Part.finish_settled (Part.setCtx_ctx_self _ _ _) (Part.nextEvent_arrivals_none (s := t.setCtx n (some c)) hp harr)

theorem Part.endCard_two (s : Part) (n : CardIx) (c : Context) (state : ProgressState) (result : ResultCode) :
    (s.endCard n c state result).two = s.two := by rw [Part.endCard_eq]

theorem Part.endCard_four (s : Part) (n : CardIx) (c : Context) (state : ProgressState) (result : ResultCode) :
    (s.endCard n c state result).four = s.four := by rw [Part.endCard_eq]

/-- Two next states are equal where their parts are. -/
theorem next_congr {s : State} {p q : Part} (h : p = q) :
    (Host.Outcome.next { s with part := p } : Host.Outcome State Fault Refusal) = .next { s with part := q } := by
  rw [h]

/-! ### Due arrivals (R52) -/

/-- The window of a card's current work, measured from its due time (R52). -/
def Context.dueWindow (c : Context) : Option Time := if c.window = 0 then none else some (c.nextArrival + BitVec.ofNat 32 c.window)

/-- A due arrival whose resolution succeeds puts the card on the ready list (R52). -/
theorem Part.takeArrival_placed {s : Part} {m : PassMode} {c : Context} {r : Resolution} (hm : m.fromAcceptance = false)
    (hr : s.resolve c.device = .ok r) (n : CardIx) (f : Fresh) :
    s.takeArrival m n c f =
      (s.setCtx n (some (c.advanceArrival.placed r c.dueWindow)), .settle { f with arrival := true, window := true }) := by
  unfold Part.takeArrival
  rw [hm]
  exact Part.placeInstance_ok (c := c.advanceArrival) hr n _ _

/-- There its work rests, if neither its window nor a further arrival is due. -/
theorem Part.finish_takeArrival {s : Part} {m : PassMode} {n : CardIx} {c : Context} {f : Fresh} {r : Resolution}
    (hm : m.fromAcceptance = false) (hr : s.resolve c.device = .ok r) (hwin : ∀ t, c.dueWindow = some t → s.dueBy t = false)
    (hagain : c.advanceArrival.armed = true → s.dueBy c.advanceArrival.nextArrival = false) :
    Part.finish m n (s.takeArrival m n c f) = s.setCtx n (some (c.advanceArrival.placed r c.dueWindow)) := by
  rw [Part.takeArrival_placed hm hr]
  exact Part.finish_settled (Part.setCtx_ctx_self _ _ _) (Part.nextEvent_waiting_none (p := r.port) rfl hwin hagain)

/-- The command of a card in SLEEPING takes the due arrival (R52). -/
theorem Part.dueArrival_sleeping {s : Part} {n : CardIx} {c : Context} (hctx : s.ctx n = some c) (hp : c.phase = .sleeping) :
    s.dueArrival n = s.timedCommand n .arrival := by
  simp [Part.dueArrival, hctx, hp]

/-- The command of a card that is not SLEEPING takes an overtake (R55). -/
theorem Part.dueArrival_overtake {s : Part} {n : CardIx} {c : Context} (hctx : s.ctx n = some c) (hp : c.phase ≠ .sleeping) :
    s.dueArrival n = s.timedCommand n .overtake := by
  simp [Part.dueArrival, hctx, hp]

/-- Settles O29: the arrival is due, its resolution succeeds, and nothing is due after it. -/
theorem dueArrivalJoinsReadyList : Obligations.DueArrivalJoinsReadyList := by
  intro s n c r hrun hctx hphase harmed hend hdue hr window again hwin hagain
  have harmedAt : c.armedAt .arrival = some c.nextArrival := by simp [Context.armedAt, hphase, harmed, hend]
  have hpart : s.part.dueArrival n = s.part.setCtx n (some (c.advanceArrival.placed r c.dueWindow)) := by
    rw [Part.dueArrival_sleeping hctx hphase,
      Part.timedCommand_due (Part.takesEvents_of hrun) hctx (Part.eventDue_of harmedAt hdue)]
    exact Part.finish_takeArrival rfl hr hwin hagain
  change Host.Outcome.next { s with part := s.part.dueArrival n } = _
  rw [hpart]
  rfl

/-! ### Overtakes (R55, R56) -/

theorem Context.catchesUp_every {c : Context} (h : c.kind = .every) : c.catchesUp = c.flags.catchUp := by
  simp [Context.catchesUp, h]

/-- A card that has started, or waits for no choice of an arbiter, is not one that waits unstarted. -/
theorem Context.waitsUnstarted_false {c : Context} (h : c.started = true ∨ c.phase = .running ∨ c.phase = .retryWait) :
    c.waitsUnstarted = false := by
  unfold Context.waitsUnstarted
  rcases h with h | h | h
  · cases c.phase <;> simp [h]
  · simp [h]
  · simp [h]

/-- The missed count lies in the card's progress half, which no resolution reads. -/
theorem Part.resolve_writeMissed {s : Part} (hm : s.rep.mem.wf = true) (n : CardIx) (c : Context) (d : DevIx) :
    (s.writeMissed n c).resolve d = s.resolve d := by
  refine Part.resolve_congr (s := s) (t := s.writeMissed n c) (fun a h1 h2 => ?_) (fun _ => rfl) rfl (fun _ => rfl) d
  have hhalf := Addr.progress_eq n
  exact Memory.get_setWord_outside hm _ (by omega)

section
variable {s : Part} {m : PassMode} {c : Context}

/-- Under CATCH_UP an overtake is owed below the debt limit (R55). -/
theorem Part.takeOvertake_owed (hcatch : c.catchesUp = true) (hdebt : c.debt < 6) (n : CardIx) (f : Fresh) :
    s.takeOvertake m n c f = s.overtakeOwed n c f := by
  rw [Part.takeOvertake, if_pos hcatch, if_neg (by simp only [Config.debtLimit]; omega)]

/-- At the debt limit it asks for a record (R56). -/
theorem Part.takeOvertake_atLimit (hcatch : c.catchesUp = true) (hdebt : 6 ≤ c.debt) (n : CardIx) (f : Fresh) :
    s.takeOvertake m n c f = s.overtakeAtLimit n c f := by
  rw [Part.takeOvertake, if_pos hcatch, if_pos hdebt]

/-- Without CATCH_UP the arrived number is missed, and the current one goes on (R55). -/
theorem Part.takeOvertake_missed (hcatch : c.catchesUp = false) (hnot : c.waitsUnstarted = false) (n : CardIx) (f : Fresh) :
    s.takeOvertake m n c f =
      ((s.writeMissed n c.missOne).setCtx n (some c.missOne.advanceArrival), .settle { f with arrival := true }) := by
  rw [Part.takeOvertake, if_neg (by simp [hcatch])]
  simp only [hnot, Bool.false_eq_true, if_false]

/-- Where the current number has not started, it is the one missed, and the arrived one is current (R55). -/
theorem Part.takeOvertake_replaces (hcatch : c.catchesUp = false) (hwaits : c.waitsUnstarted = true) (n : CardIx) (f : Fresh) :
    s.takeOvertake m n c f = (s.writeMissed n c.missOne).takeArrival m n (c.missOne.serve c.j) f := by
  rw [Part.takeOvertake, if_neg (by simp [hcatch])]
  simp only [hwaits, if_true]

/-- At the debt limit a RUNNING card takes the limit as its pending end (R56). -/
theorem Part.overtakeAtLimit_running (h : c.phase = .running) (n : CardIx) (f : Fresh) :
    s.overtakeAtLimit n c f =
      ((s.request (debtLimitRecord s.now n c)).setCtx n (some { c with pendingEnd := .debtLimit }), .settle f) := by
  rw [Part.overtakeAtLimit, h]

/-- Any other card ends at the debt limit (R56). -/
theorem Part.overtakeAtLimit_ends (h : c.phase ≠ .running) (n : CardIx) (f : Fresh) :
    s.overtakeAtLimit n c f = (s.request (debtLimitRecord s.now n c)).endCardWork n c .failed .debtLimit f := by
  rw [Part.overtakeAtLimit]
  cases hp : c.phase with
  | running => exact absurd hp h
  | sleeping | waiting _ | retryWait => rfl

end

/-- The next arrival of an EVERY card (R52, R55). -/
theorem Context.advanceArrival_every {c : Context} (h : c.kind = .every) :
    c.advanceArrival =
      { c with
        j := c.j + 1#32, nextArrival := c.nextArrival + c.period
        armed := !(c.count != 0 && c.j + 1#32 == BitVec.ofNat 32 c.count) } := by
  simp only [Context.advanceArrival, h, beq_self_eq_true, Bool.true_and]

/-- The command of a card that is overtaken. -/
theorem exec_overtake {s : State} {n : CardIx} {c : Context} (hrun : s.part.run.state = .running ∨ s.part.run.state = .quiescing)
    (hctx : s.part.ctx n = some c) (hphase : c.phase ≠ .sleeping) (harmed : c.armed = true) (hend : c.pendingEnd = .none)
    (hdue : Time.atOrAfter s.part.time.count c.nextArrival = true) :
    exec (.dueArrival n) s = .next { s with part := Part.finish .plain n (s.part.takeOvertake .plain n c .none) } := by
  have harmedAt : c.armedAt .overtake = some c.nextArrival := by simp [Context.armedAt, hphase, harmed, hend]
  refine next_congr (p := s.part.dueArrival n) ?_
  rw [Part.dueArrival_overtake hctx hphase, Part.timedCommand_due (Part.takesEvents_of hrun) hctx (Part.eventDue_of harmedAt hdue)]
  rfl

/-- Settles O30: the overtake by the CATCH_UP flag, the debt and the phase of the current work. -/
theorem overtakeOwedMissedOrLimit : Obligations.OvertakeOwedMissedOrLimit := by
  intro s n c hrun hctx hkind hphase harmed hend hdue again record advanced
  have hadvanced : c.advanceArrival = advanced := Context.advanceArrival_every hkind
  have hcatch := Context.catchesUp_every hkind
  rw [exec_overtake hrun hctx hphase harmed hend hdue]
  refine ⟨fun hcu hdebt hagain => ?_, fun hcu hstate hagain => ?_, fun port r hcu hwaiting hstarted hm hr => ?_,
    fun hcu hdebt hrunning => ?_, fun hcu hdebt hnot hm => ?_⟩
  · rw [Part.takeOvertake_owed (hcatch.trans hcu) hdebt, Part.overtakeOwed, hadvanced]
    exact next_congr (Part.finish_arrivals (c := { advanced with debt := c.debt + 1 }) hphase hagain)
  · have hmissed : c.missOne.advanceArrival = { advanced with missed := c.missed + 1#32 } :=
      (Context.advanceArrival_every (c := c.missOne) hkind).trans rfl
    rw [Part.takeOvertake_missed (hcatch.trans hcu) (Context.waitsUnstarted_false hstate), hmissed]
    exact next_congr (Part.finish_arrivals (c := { advanced with missed := c.missed + 1#32 }) hphase hagain)
  · intro window hwin hagain
    have hserved : (c.missOne.serve c.j).advanceArrival = { advanced with
        k := c.j, missed := c.missed + 1#32, late := false, catchUpRun := false, fromRetry := false
        retryTally := 0, yieldTally := 0, substituted := false, windowExpiry := none, gapExpiry := none, last := none } := by
      rw [Context.advanceArrival_every (c := c.missOne.serve c.j) hkind]
      simp only [Context.serve, Context.missOne, hstarted, advanced, again]
    have hsame : (c.missOne.serve c.j).advanceArrival.placed r (c.missOne.serve c.j).dueWindow =
        { advanced with
          k := c.j, missed := c.missed + 1#32, phase := .waiting r.port, late := false, catchUpRun := false, fromRetry := false
          retryTally := 0, yieldTally := 0, resolved := r.device, substituted := r.substituted, windowExpiry := window
          gapExpiry := none, last := none } := by
      rw [hserved]
      rfl
    have hwaits : c.waitsUnstarted = true := by simp [Context.waitsUnstarted, hwaiting, hstarted]
    rw [Part.takeOvertake_replaces (hcatch.trans hcu) hwaits,
      Part.finish_takeArrival (c := c.missOne.serve c.j) rfl ((Part.resolve_writeMissed hm n c.missOne c.device).trans hr) hwin
        (by rw [hserved]; exact hagain), hsame]
    rfl
  · rw [Part.takeOvertake_atLimit (hcatch.trans hcu) hdebt, Part.overtakeAtLimit_running hrunning,
      Part.finish_settled (Part.setCtx_ctx_self _ _ _) (Part.nextEvent_none _ _ _)]
    rfl
  · have hwf : (s.part.request record).rep.mem.wf = true := memWf_closed.request s.part.rep _ _ record hm
    have hended : Part.finish .plain n (s.part.takeOvertake .plain n c .none) =
        (s.part.request record).endCard n c .failed .debtLimit := by
      rw [Part.takeOvertake_atLimit (hcatch.trans hcu) hdebt, Part.overtakeAtLimit_ends hnot, Part.endCardWork,
        Part.finish_free (Part.endCard_ctx _ _ _ _ _)]
      rfl
    rw [hended]
    refine ⟨_, rfl, Part.endCard_cardEnded hwf n c .failed .debtLimit, ?_, Part.endCard_two _ _ _ _ _, Part.endCard_four _ _ _ _ _,
      fun m hmn => Part.endCard_ctx_other hmn _ _ _ _⟩
    simp only [Part.endCard_eq]

/-! ### Windows and retry gaps (R53, R54, R61) -/

/-- A card ends after a miss that is counted: the words of both in its progress half, and no other card touched (R53, R136). -/
theorem Part.endCard_missed {s : Part} (hm : s.rep.mem.wf = true) (n : CardIx) (c : Context) (state : ProgressState)
    (result : ResultCode) :
    let t := (s.writeMissed n c.missOne).endCard n c.missOne state result
    t.cardEnded n c.generation state result ∧ t.rep.mem.word (Addr.progress n + 12) = c.missed + 1#32 ∧
      ∀ a : Nat, ¬Addr.ofCardReport n a → t.rep.mem.get a = s.rep.mem.get a := by
  intro t
  have hwf : (s.writeMissed n c.missOne).rep.mem.wf = true := Memory.wf_setWord hm _ _
  obtain ⟨_, hsame⟩ := Reports.endWord_mem (r := (s.writeMissed n c.missOne).rep) hwf n (c.missOne.wordAs state result)
  refine ⟨Part.endCard_cardEnded hwf n c.missOne state result, ?_, fun a ha => ?_⟩
  · exact (Memory.word_congr (fun b h1 h2 => hsame b (Or.inl (by omega)))).trans (Memory.word_setWord hm _ _)
  · refine (hsame a (Or.inr ha)).trans (Memory.get_setWord_outside hm _ ?_)
    unfold Addr.ofCardReport at ha
    omega

/-- Settles O31: the window by the CATCH_UP flag and the card's kind. -/
theorem windowExpiryLateOrMissed : Obligations.WindowExpiryLateOrMissed := by
  intro s n c port e hrun hctx hphase hstarted hwindow hdue
  have harmedAt : c.armedAt .window = some e := by simp [Context.armedAt, Context.waitsUnstarted, hphase, hstarted, hwindow]
  have hcommand : exec (.windowExpiry n) s = .next { s with part := Part.finish .plain n (s.part.takeWindow n c .none) } := by
    change Host.Outcome.next { s with part := s.part.timedCommand n .window } = _
    rw [Part.timedCommand_due (Part.takesEvents_of hrun) hctx (Part.eventDue_of harmedAt hdue)]
    rfl
  rw [hcommand]
  refine ⟨fun hkind hcu => ?_, fun hkind hm => ?_, fun hkind hcu hcount harr => ?_⟩
  · have htake : s.part.takeWindow n c .none =
        (s.part.setCtx n (some { c with late := true, windowExpiry := none }), .settle .none) := by
      rw [Part.takeWindow, if_pos ((Context.catchesUp_every hkind).trans hcu)]
    rw [htake, Part.finish_settled (Part.setCtx_ctx_self _ _ _) (Part.nextEvent_none _ _ _)]
  · have htake : s.part.takeWindow n c .none = (s.part.writeMissed n c.missOne).endCardWork n c.missOne .failed .late .none := by
      rw [Part.takeWindow, if_neg (by simp [Context.catchesUp, hkind])]
      simp only [hkind]
    rw [htake, Part.endCardWork, Part.finish_free (Part.endCard_ctx _ _ _ _ _)]
    obtain ⟨hended, hword, hout⟩ := Part.endCard_missed hm n c .failed .late
    exact ⟨_, rfl, hended, hword, Part.endCard_two _ _ _ _ _, Part.endCard_four _ _ _ _ _,
      fun m hmn => Part.endCard_ctx_other hmn _ _ _ _, hout⟩
  · intro next
    have hused : c.missOne.countUsed = false := Bool.eq_false_iff.mpr (fun hu => by
      obtain ⟨hne, heq⟩ := Context.countUsed_iff.mp hu
      exact hcount.elim hne (fun hn => hn heq))
    have htake : s.part.takeWindow n c .none = (s.part.writeMissed n c.missOne).nextInstance n c.missOne .none := by
      rw [Part.takeWindow, if_neg (by simp [Context.catchesUp, hcu])]
      simp only [hkind, hused, Bool.false_eq_true, if_false]
    have hquiet : ((s.part.writeMissed n c.missOne).setCtx n (some next)).nextEvent .plain next { Fresh.none with arrival := true } =
        none := by
      refine Part.nextEvent_eq_none (fun ev _ => ?_)
      by_cases hev : ev = .arrival
      · subst hev
        unfold Part.eventDue Context.armedAt
        simp only
        split
        · rename_i h
          exact harr h.2.1 h.2.2
        · rfl
      · simp [Part.eventDue, Context.armedAt_sleeping (c := next) rfl hev, Part.expired]
    have hnext : (s.part.writeMissed n c.missOne).nextInstance n c.missOne .none =
        ((s.part.writeMissed n c.missOne).setCtx n (some next), .settle { Fresh.none with arrival := true }) := rfl
    rw [htake, hnext, Part.finish_settled (Part.setCtx_ctx_self _ _ _) hquiet]
    rfl

/-- Settles O32: a gap that has run out resolves the card's work again, with no window. -/
theorem gapExpiryReturnsToReadyList : Obligations.GapExpiryReturnsToReadyList := by
  intro s n c e r hrun hctx hphase hgap hdue hr
  have harmedAt : c.armedAt .gap = some e := by simp [Context.armedAt, hphase, hgap]
  have htake : s.part.takeGap n c .none =
      (s.part.setCtx n (some (({ c with gapExpiry := none, fromRetry := true } : Context).placed r none)), .settle .none) :=
    Part.placeInstance_ok (c := { c with gapExpiry := none, fromRetry := true }) hr n none .none
  change Host.Outcome.next { s with part := s.part.timedCommand n .gap } = _
  rw [Part.timedCommand_due (Part.takesEvents_of hrun) hctx (Part.eventDue_of harmedAt hdue), Part.takeEvent, htake,
    Part.finish_settled (Part.setCtx_ctx_self _ _ _) (Part.nextEvent_none _ _ _)]
  rfl

end Sys2Proof.Machine
end

section
/-! The arbiter: its candidates, its choice among them, and the attempt that a choice begins (R58, R59, R82, R113). -/

namespace Sys2Proof.Machine

/-! ### The order of the candidates (R58) -/

/-- `x` comes no later than `y` by the arbiter's criteria: priority number, then age, then card index. -/
def Part.RanksBefore (s : Part) (x y : Candidate) : Prop :=
  x.ctx.priority < y.ctx.priority ∨
    (x.ctx.priority = y.ctx.priority ∧ (s.age y.ctx < s.age x.ctx ∨ (s.age y.ctx = s.age x.ctx ∧ x.card ≤ y.card)))

theorem Part.RanksBefore.refl (s : Part) (x : Candidate) : s.RanksBefore x x := Or.inr ⟨rfl, Or.inr ⟨rfl, Fin.le_refl _⟩⟩

theorem Part.RanksBefore.trans {s : Part} {x y z : Candidate} (h1 : s.RanksBefore x y) (h2 : s.RanksBefore y z) :
    s.RanksBefore x z := by
  unfold Part.RanksBefore at *
  simp only [Fin.le_def] at *
  omega

/-- A candidate that stands before one of a higher card index ranks before it. -/
theorem Part.ranksBefore_of_precedes {s : Part} {x y : Candidate} (h : s.precedes x y = true) (hcard : x.card < y.card) :
    s.RanksBefore x y := by
  unfold Part.RanksBefore
  simp only [Part.precedes, Bool.or_eq_true, Bool.and_eq_true, decide_eq_true_eq, beq_iff_eq] at h
  simp only [Fin.le_def, Fin.lt_def] at *
  omega

/-- A candidate that does not stand before another one ranks after it. -/
theorem Part.ranksBefore_of_not_precedes {s : Part} {x y : Candidate} (h : s.precedes x y = false) : s.RanksBefore y x := by
  unfold Part.RanksBefore
  simp only [Part.precedes, Bool.or_eq_false_iff, Bool.and_eq_false_iff, decide_eq_false_iff_not, beq_eq_false_iff_ne] at h
  simp only [Fin.le_def]
  omega

theorem Part.best_eq_none {s : Part} {xs : List Candidate} : s.best xs = none ↔ xs = [] := by
  cases xs with
  | nil => simp [Part.best]
  | cons a rest =>
    simp only [Part.best, reduceCtorEq, iff_false]
    split
    · simp
    · split <;> simp

/-- Among candidates in rising order of card index, the chosen one ranks before every other. -/
theorem Part.best_ranksBefore {s : Part} {xs : List Candidate} (hxs : xs.Pairwise (fun a b => a.card < b.card)) :
    ∀ {x : Candidate}, s.best xs = some x → ∀ y ∈ xs, s.RanksBefore x y := by
  induction xs with
  | nil => intro x h; cases h
  | cons a rest ih =>
    obtain ⟨hfirst, hrest⟩ := List.pairwise_cons.mp hxs
    intro x h y hy
    rw [Part.best] at h
    cases hb : s.best rest with
    | none =>
      rw [hb] at h
      obtain rfl := Option.some.inj h
      obtain rfl : y = a := by simpa [Part.best_eq_none.mp hb] using hy
      exact .refl s y
    | some b =>
      rw [hb] at h
      have hbest := ih hrest hb
      by_cases hab : s.precedes a b = true
      · obtain rfl : a = x := by simpa [hab] using h
        have hmine := Part.ranksBefore_of_precedes hab (hfirst b (Part.best_mem hb))
        rcases List.mem_cons.mp hy with rfl | hy'
        · exact .refl s y
        · exact hmine.trans (hbest y hy')
      · obtain rfl : b = x := by simpa [hab] using h
        rcases List.mem_cons.mp hy with rfl | hy'
        · exact Part.ranksBefore_of_not_precedes (by simpa using hab)
        · exact hbest y hy'

/-- The candidate a card on a ready list is, if its device is not under guard. -/
def Part.candidateOf (s : Part) (n : CardIx) : Option Candidate :=
  (s.ctx n).bind (fun c => if s.underGuard c.resolved then none else some { card := n, ctx := c })

theorem Part.candidates_eq (s : Part) (p : PortIx) : s.candidates p = (s.readyCards p).filterMap s.candidateOf := by
  unfold Part.candidates
  congr 1
  funext n
  unfold Part.candidateOf
  cases s.ctx n <;> rfl

theorem Part.card_candidateOf {s : Part} {n : CardIx} {x : Candidate} (h : s.candidateOf n = some x) : x.card = n := by
  obtain ⟨c, _, hx⟩ := Option.bind_eq_some_iff.mp h
  split at hx
  · cases hx
  · cases hx; rfl

/-- The candidates of a port stand in rising order of card index. -/
theorem Part.candidates_pairwise (s : Part) (p : PortIx) : (s.candidates p).Pairwise (fun a b => a.card < b.card) := by
  have hready : (s.readyCards p).Pairwise (· < ·) := (List.sortedLT_finRange _).pairwise.filter _
  rw [Part.candidates_eq]
  exact hready.filterMap _ (fun n m hnm a ha b hb => by rw [Part.card_candidateOf ha, Part.card_candidateOf hb]; exact hnm)

/-- Settles O33: the candidates in rising card order, and the choice among them by the arbiter's criteria. -/
theorem arbiterChoosesByPriorityAgeIndex : Obligations.ArbiterChoosesByPriorityAgeIndex := by
  intro s port p
  refine ⟨fun x => ?_, Part.best_eq_none, fun x hx => ⟨Part.best_mem hx, fun y hy => ?_⟩⟩
  · rw [Part.mem_candidates, Part.underGuard, Option.isSome_eq_false_iff, Option.isNone_iff_eq_none]
  · exact Part.best_ranksBefore (p.candidates_pairwise port) hx y hy

/-! ### The attempt a choice begins (R59, R90, R113) -/

/-- A resolution that succeeds gives a usable entry, and the port that it names (R73). -/
theorem Part.resolve_entry {s : Part} {d : DevIx} {r : Resolution} (h : s.resolve d = .ok r) :
    r.entry.usable = true ∧ r.port = r.entry.portIx := by
  unfold Part.resolve at h
  split at h
  · cases h
  · rename_i hown
    have hown' : (readEntry s.rep.mem d).usable = true := by simpa using hown
    unfold Part.serving at h
    split at h
    · cases h
    · rename_i b sub hserving
      simp only at h
      split at h
      · cases h
      · cases h
        refine ⟨?_, rfl⟩
        split at hserving
        · cases hserving; exact hown'
        · split at hserving
          · split at hserving
            · rename_i hstandby
              cases hserving
              exact (Bool.and_eq_true_iff.mp hstandby).1
            · cases hserving
          · cases hserving

/-- The entry a resolution gives for a four-wire port has a mode of Table 6-2. -/
theorem Part.resolve_mode {s : Part} {d : DevIx} {r : Resolution} {q : FourIx} (h : s.resolve d = .ok r)
    (hport : r.port = fourPort q) : r.entry.mode ≤ 3 := by
  obtain ⟨husable, hnamed⟩ := Part.resolve_entry h
  obtain ⟨_, hport3, _, hfour, _⟩ := (DeviceEntry.usable_iff _).mp husable
  have hval : r.entry.port % 4 = q.val + 2 := congrArg Fin.val (hnamed.symm.trans hport)
  exact (hfour (by omega)).2

/-- What the part drives before the select, by the mode (R113, Table 6-2). -/
theorem fourLead_eq {e : DeviceEntry} (h : e.mode ≤ 3) (ss : List Slot) :
    fourLead e ss = .clockIdle (decide (2 ≤ e.mode)) ::
      (if e.mode = 1 ∨ e.mode = 3 then [] else (((outBits e ss).head?).map BusItem.dataOut).toList) := by
  have hmode : e.mode = 0 ∨ e.mode = 1 ∨ e.mode = 2 ∨ e.mode = 3 := by omega
  unfold fourLead presentedFirst
  rcases hmode with hm | hm | hm | hm <;> simp [hm, clockMode]

/-- A choice whose resolution gives a free device on the port begins the attempt (R59). -/
theorem Part.arbiterChoice_begins {s : Part} {p : PortIx} {x : Candidate} {r : Resolution} (hrun : s.run.state = .running)
    (hidle : s.portIdle p = true) (hbest : s.best (s.candidates p) = some x) (hr : s.resolve x.ctx.device = .ok r)
    (hport : r.port = p) (hguard : (s.dev.get r.device).guard = none) :
    s.arbiterChoice p = s.beginAttempt p x.card x.ctx r := by
  have hfree : s.underGuard r.device = false := by simp [Part.underGuard, hguard]
  simp [Part.arbiterChoice, hrun, hidle, hbest, Part.carryOutChoice, hr, hport, hfree]

theorem Part.portIdle_two (s : Part) (q : TwoIx) :
    s.portIdle (twoPort q) = ((s.twoAt q).state == .idle && !(s.twoAt q).viewBusy) := by
  rw [Part.portIdle, dif_pos (show (twoPort q).val < 2 from q.isLt)]
  rfl

theorem Part.portIdle_four (s : Part) (q : FourIx) :
    s.portIdle (fourPort q) = ((s.fourAt q).state == .idle && !(s.fourAt q).sense) := by
  rw [Part.portIdle, dif_neg (by simp [fourPort])]
  rfl

/-- The report of a card that becomes RUNNING: its progress word at the first of its posting (R136). -/
theorem Part.beginAttempt_eq (s : Part) (p : PortIx) (n : CardIx) (c : Context) (r : Resolution) :
    s.beginAttempt p n c r =
      (({ s with rep := if c.active then s.rep else s.rep.writeProgress n (c.begun r).liveWord } : Part).setCtx n
        (some (c.begun r))).activate p (s.newAttempt n (c.begun r) r) (c.begun r) := by
  unfold Part.beginAttempt
  cases c.active <;> rfl

/-- Settles O34: the choice begins the attempt, in phase START or in phase SELECT by the port. -/
theorem arbiterChoiceBeginsAttempt : Obligations.ArbiterChoiceBeginsAttempt := by
  intro s port x r hrun hbest hr hport hguard c a rep
  have hchoice : s.part.portIdle port = true → s.part.arbiterChoice port = _ := fun hidle =>
    (Part.arbiterChoice_begins hrun hidle hbest hr hport hguard).trans (Part.beginAttempt_eq _ _ _ _ _)
  refine ⟨fun q hq hstate hview => ?_, fun q hq hstate hsense => ?_⟩
  · subst hq
    have hidle : s.part.portIdle (twoPort q) = true := by simp [Part.portIdle_two, hstate, hview]
    change Host.Outcome.next { s with part := s.part.arbiterChoice (twoPort q) } = _
    rw [hchoice hidle, Part.activate, dif_pos (show (twoPort q).val < 2 from q.isLt)]
    rfl
  · subst hq
    have hnot : ¬(fourPort q).val < 2 := by simp [fourPort]
    have hidle : s.part.portIdle (fourPort q) = true := by simp [Part.portIdle_four, hstate, hsense]
    change Host.Outcome.next { s with part := s.part.arbiterChoice (fourPort q) } = _
    rw [hchoice hidle, Part.activate, dif_neg hnot, ← fourLead_eq (Part.resolve_mode hr hport)]
    rfl

end Sys2Proof.Machine
end

section
/-! The bytes of an attempt about a check byte: what has crossed before it, and the address byte and the last byte seen there
(R91 to R94, R105, R115). -/

namespace Sys2Proof.Machine

/-! ### The last address byte -/

/-- An address byte that has crossed is the last one. -/
theorem lastAddress_concat_address {ss : List Slot} {cur : Slot} {byte : Byte} (h : cur.kind = .address byte) :
    lastAddress (ss ++ [cur]) = byte := by
  have hcur : cur.addressByte = some byte := by simp [Slot.addressByte, h]
  simp [lastAddress, List.filterMap_append, hcur]

/-- A byte that is no address byte leaves the last address byte. -/
theorem lastAddress_concat_other {ss : List Slot} {cur : Slot} (h : cur.addressByte = none) :
    lastAddress (ss ++ [cur]) = lastAddress ss := by
  simp [lastAddress, List.filterMap_append, h]

/-! ### The position of a byte -/

/-- A byte found at a position: the bytes before it, and whether its bits have crossed. -/
theorem locateByte_some {ss : List Slot} {pos : BusPos} {whole : Bool} {b : Before} (h : locateByte ss pos whole = some b) :
    b.complete = ss.takeWhile (fun x => x.pos != pos) ∧ b.current = ss.find? (fun x => x.pos == pos) ∧ b.whole = whole := by
  unfold locateByte at h
  cases hfind : ss.find? (fun x => x.pos == pos) with
  | none => simp [hfind] at h
  | some cur =>
    rw [hfind, Option.map_some, Option.some.injEq] at h
    subst h
    exact ⟨rfl, rfl, rfl⟩

/-- A position with the bytes received up to it. -/
theorem locateWith_some {ss : List Slot} {legs : Nat} {pos : BusPos} {rx : List Byte} {b : Before}
    (h : locateWith ss legs pos rx = some b) : locate ss legs pos = some b ∧ rx.length = b.receivedCount := by
  unfold locateWith at h
  split at h
  · cases h
  · rename_i b' hb
    split at h
    · rename_i hlen
      cases h
      exact ⟨hb, hlen⟩
    · cases h

/-- The bytes before a data byte have been received. -/
theorem locateWith_data {ss : List Slot} {legs leg i : Nat} {rx : List Byte} {b : Before}
    (h : locateWith ss legs (.data leg i) rx = some b) :
    b.complete = ss.takeWhile (fun x => x.pos != .data leg i) ∧ b.current = ss.find? (fun x => x.pos == .data leg i) ∧
      rx.length = readCount b.complete := by
  obtain ⟨hloc, hlen⟩ := locateWith_some h
  obtain ⟨hcomplete, hcurrent, hwhole⟩ := locateByte_some hloc
  refine ⟨hcomplete, hcurrent, ?_⟩
  simpa [Before.receivedCount, hwhole] using hlen

/-! ### What has crossed -/

/-- A run of bytes whose last one is no received data byte: the check byte takes nothing of it in. -/
def ClosedRun (ss : List Slot) : Prop := ∀ x, ss.getLast? = some x → x.isRead = false

theorem closedRun_of_forall {ss : List Slot} (h : ∀ x ∈ ss, x.isRead = false) : ClosedRun ss :=
  fun x hx => h x (List.mem_of_getLast? hx)

theorem ClosedRun.append {xs ys : List Slot} (hx : ClosedRun xs) (hy : ClosedRun ys) : ClosedRun (xs ++ ys) := by
  intro x h
  rw [List.getLast?_append] at h
  cases hlast : ys.getLast? with
  | none => exact hx x (by simpa [hlast] using h)
  | some y =>
    obtain rfl : y = x := by simpa [hlast] using h
    exact hy y hlast

theorem closedRun_flatMap {α : Type} {f : α → List Slot} (hf : ∀ x, ClosedRun (f x)) (xs : List α) : ClosedRun (xs.flatMap f) := by
  induction xs with
  | nil => exact closedRun_of_forall (by simp)
  | cons x xs ih => rw [List.flatMap_cons]; exact (hf x).append ih

/-- A byte that is no received data byte begins the check afresh. -/
theorem crossed_append_cons {cur : Slot} (hcur : cur.isRead = false) (rest xs : List Slot) (rx acc : List Byte) :
    crossed (xs ++ cur :: rest) rx acc = crossed (xs ++ [cur]) rx acc ++ crossed rest (rx.drop (readCount xs)) [] := by
  induction xs generalizing rx acc with
  | nil =>
    unfold Slot.isRead at hcur
    cases hkind : cur.kind <;> simp_all [crossed, readCount]
  | cons x xs ih =>
    simp only [List.cons_append, crossed]
    cases hkind : x.kind with
    | address byte | out byte | readCheck => simp [ih, readCount, Slot.isRead, hkind]
    | read ack =>
      have hcount : readCount (x :: xs) = readCount xs + 1 := by simp [readCount, Slot.isRead, hkind]
      cases rx with
      | nil => simp [ih]
      | cons byte rx => simp [ih, hcount]

theorem crossed_append {xs : List Slot} (hxs : ClosedRun xs) (rest : List Slot) (rx : List Byte) :
    crossed (xs ++ rest) rx [] = crossed xs rx [] ++ crossed rest (rx.drop (readCount xs)) [] := by
  rcases List.eq_nil_or_concat xs with rfl | ⟨ys, cur, rfl⟩
  · simp [crossed, readCount]
  · rw [List.concat_eq_append] at hxs ⊢
    have hcur : cur.isRead = false := hxs cur List.getLast?_concat
    have hcount : readCount (ys ++ [cur]) = readCount ys := by simp [readCount, hcur]
    rw [List.append_assoc, hcount]
    exact crossed_append_cons hcur rest ys rx []

/-- The check byte after received data bytes matches those bytes (R93). -/
theorem getLast_crossed_check {cur : Slot} (hcur : cur.kind = .readCheck) {xs : List Slot} (hxs : ∀ x ∈ xs, x.isRead = true)
    {rx : List Byte} (hlen : rx.length = xs.length) (acc : List Byte) :
    (crossed (xs ++ [cur]) rx acc).getLast? = some { slot := cur, byte := crc8 (acc ++ rx) } := by
  induction xs generalizing rx acc with
  | nil =>
    obtain rfl : rx = [] := List.length_eq_zero_iff.mp hlen
    simp [crossed, hcur]
  | cons x xs ih =>
    obtain ⟨hx, hrest⟩ := List.forall_mem_cons.mp hxs
    cases rx with
    | nil => simp at hlen
    | cons byte rx =>
      have hlast := ih hrest (rx := rx) (by simpa using hlen) (acc ++ [byte])
      unfold Slot.isRead at hx
      cases hkind : x.kind with
      | address _ | out _ | readCheck => simp [hkind] at hx
      | read ack =>
        rw [List.cons_append, crossed, hkind]
        simp only [List.getLast?_cons, hlast, Option.getD_some]
        simp

/-! ### The check byte of a leg -/

/-- The data and check bytes of a leg stand at data positions of that leg. -/
theorem pos_of_mem_dataSlots {c : Context} {check : Bool} {leg : Leg} {l : Nat} {x : Slot} (h : x ∈ c.dataSlots check leg l) :
    ∃ i, x.pos = .data l i := by
  unfold Context.dataSlots at h
  cases hop : leg.op with
  | write =>
    simp only [hop, List.mem_map] at h
    obtain ⟨y, _, rfl⟩ := h
    exact ⟨_, rfl⟩
  | read =>
    simp only [hop, List.mem_append, List.mem_map] at h
    rcases h with ⟨i, _, rfl⟩ | h
    · exact ⟨_, rfl⟩
    · cases check
      · simp at h
      · obtain rfl := List.mem_singleton.mp h
        exact ⟨_, rfl⟩

/-- The received data bytes of a READ leg of `n` bytes with CHECK. -/
def readRun (l n : Nat) : List Slot := (List.range n).map (fun i => { pos := .data l i, leg := l, kind := .read true })

/-- The check byte of a READ leg of `n` bytes. -/
def checkSlot (l n : Nat) : Slot := { pos := .data l n, leg := l, kind := .readCheck }

theorem dataSlots_read_check {c : Context} {leg : Leg} (hop : leg.op = .read) (l : Nat) :
    c.dataSlots true leg l = readRun l leg.length ++ [checkSlot l leg.length] := by
  simp [Context.dataSlots, hop, readRun, checkSlot]

theorem readCount_readRun (l n : Nat) : readCount (readRun l n) = n := by
  rw [readCount, List.countP_eq_length.mpr (fun x hx => ?_), readRun, List.length_map, List.length_range]
  obtain ⟨i, _, rfl⟩ := List.mem_map.mp hx
  rfl

/-- With CHECK every leg ends with a check byte. -/
theorem closedRun_dataSlots (c : Context) (leg : Leg) (l : Nat) : ClosedRun (c.dataSlots true leg l) := by
  cases hop : leg.op with
  | write =>
    refine closedRun_of_forall (fun x hx => ?_)
    simp only [Context.dataSlots, hop, List.mem_map] at hx
    obtain ⟨y, _, rfl⟩ := hx
    rfl
  | read =>
    intro x hx
    rw [dataSlots_read_check hop, List.getLast?_concat, Option.some.injEq] at hx
    subst hx
    rfl

/-- A data byte of a leg of which a check byte is received is one of a READ leg with CHECK, at the end of it. -/
theorem read_of_readCheck {c : Context} {check : Bool} {leg : Leg} {l : Nat} {x : Slot} (h : x ∈ c.dataSlots check leg l)
    (hx : x.kind = .readCheck) : leg.op = .read ∧ check = true := by
  unfold Context.dataSlots at h
  cases hop : leg.op with
  | write =>
    simp only [hop, List.mem_map] at h
    obtain ⟨y, _, rfl⟩ := h
    cases hx
  | read =>
    refine ⟨rfl, ?_⟩
    simp only [hop, List.mem_append, List.mem_map] at h
    rcases h with ⟨i, _, rfl⟩ | h
    · cases hx
    · cases check
      · simp at h
      · rfl

/-- The bytes of an attempt leg by leg: address bytes first, if the bus has any, then data and check bytes. -/
structure LegRuns (c : Context) (check : Bool) (f : Leg × Nat → List Slot) (lead : Leg × Nat → List Slot) : Prop where
  split : ∀ x, f x = lead x ++ c.dataSlots check x.1 x.2
  address : ∀ x, ∀ y ∈ lead x, y.isRead = false ∧ ∀ l i, y.pos ≠ .data l i

theorem legRuns_two (c : Context) (e : DeviceEntry) :
    LegRuns c e.check (fun x => c.twoLegSlots e x.1 x.2)
      (fun x => (addressBytes e x.1.op).zipIdx.map (fun b => { pos := .address x.2 b.2, leg := x.2, kind := .address b.1 })) where
  split _ := rfl
  address _ _ hy := by
    obtain ⟨b, _, rfl⟩ := List.mem_map.mp hy
    exact ⟨rfl, fun _ _ h => nomatch h⟩

theorem legRuns_four (c : Context) (e : DeviceEntry) :
    LegRuns c e.check (fun x => c.dataSlots e.check x.1 x.2) (fun _ => []) where
  split _ := rfl
  address _ _ hy := nomatch hy

/-- A data byte of a leg lies behind the legs before it and its address bytes, and before the legs behind it. -/
theorem LegRuns.around {c : Context} {check : Bool} {f lead : Leg × Nat → List Slot} (hf : LegRuns c check f lead) {l : Leg} :
    ∀ {legs : List Leg} {leg : Nat} (k : Nat), legs[leg]? = some l →
      ∃ front back, (legs.zipIdx k).flatMap f = front ++ (c.dataSlots check l (k + leg) ++ back) ∧
        (∀ x ∈ front, ∀ i, x.pos ≠ .data (k + leg) i) ∧ (∀ x ∈ back, ∀ i, x.pos ≠ .data (k + leg) i) ∧
        (check = true → ClosedRun front) := by
  intro legs
  have hpos : ∀ (ys : List Leg) (j m : Nat), m < j → ∀ x ∈ (ys.zipIdx j).flatMap f, ∀ i, x.pos ≠ .data m i := by
    intro ys j m hm x hx i he
    obtain ⟨y, hy, hxy⟩ := List.mem_flatMap.mp hx
    rw [hf.split] at hxy
    rcases List.mem_append.mp hxy with h | h
    · exact (hf.address y x h).2 m i he
    · obtain ⟨i', hi'⟩ := pos_of_mem_dataSlots h
      have hindex := (List.mem_zipIdx hy).1
      rw [he] at hi'
      injection hi' with hmy _
      omega
  induction legs with
  | nil => intro leg k h; simp at h
  | cons first legs ih =>
    intro leg k h
    rw [List.zipIdx_cons, List.flatMap_cons]
    cases leg with
    | zero =>
      obtain rfl : first = l := by simpa using h
      exact ⟨lead (first, k), (legs.zipIdx (k + 1)).flatMap f, by rw [hf.split]; simp, fun x hx => (hf.address _ x hx).2 _,
        hpos legs (k + 1) (k + 0) (by omega), fun _ => closedRun_of_forall (fun x hx => (hf.address _ x hx).1)⟩
    | succ leg =>
      obtain ⟨front, back, hslots, hfront, hback, hclosed⟩ := ih (k + 1) (by simpa using h)
      have hindex : k + 1 + leg = k + (leg + 1) := by omega
      rw [hindex] at hslots hfront hback
      refine ⟨f (first, k) ++ front, back, by rw [hslots, List.append_assoc], fun x hx i => ?_, hback, fun hc => ?_⟩
      · rcases List.mem_append.mp hx with hx' | hx'
        · intro he
          rw [hf.split] at hx'
          rcases List.mem_append.mp hx' with h' | h'
          · exact (hf.address _ x h').2 _ _ he
          · obtain ⟨i', hi'⟩ := pos_of_mem_dataSlots h'
            rw [he] at hi'
            injection hi' with hmy _
            simp only at hmy
            omega
        · exact hfront x hx' i
      · refine ClosedRun.append ?_ (hclosed hc)
        rw [hf.split]
        subst hc
        exact (closedRun_of_forall (fun x hx => (hf.address _ x hx).1)).append (closedRun_dataSlots c first k)

/-- A received check byte matches when it is the check of the data bytes of its leg, the last ones received (R93, R115). -/
theorem LegRuns.lastByte_check {c : Context} {check : Bool} {f lead : Leg × Nat → List Slot} (hf : LegRuns c check f lead) {l : Leg}
    {leg legs : Nat} {rx : List Byte} {b : Before} {cur : Slot} (hleg : c.legs[leg]? = some l)
    (hb : locateWith (c.legs.zipIdx.flatMap f) legs (.data leg l.length) rx = some b) (hcur : b.current = some cur)
    (hkind : cur.kind = .readCheck) :
    lastByte (crossed (b.complete ++ [cur]) rx []) = crc8 (rx.drop (rx.length - l.length)) := by
  obtain ⟨front, back, hslots, hfront, hback, hclosed⟩ := hf.around 0 hleg
  rw [Nat.zero_add] at hslots hfront hback
  obtain ⟨hcomplete, hfind, hlen⟩ := locateWith_data hb
  rw [hfind] at hcur
  obtain ⟨hop, rfl⟩ : l.op = .read ∧ check = true := by
    have hmem := List.mem_of_find?_eq_some hcur
    have hpos : cur.pos = .data leg l.length := by simpa using List.find?_some hcur
    rw [hslots, List.mem_append, List.mem_append] at hmem
    rcases hmem with h | h | h
    · exact absurd hpos (hfront cur h _)
    · exact read_of_readCheck h hkind
    · exact absurd hpos (hback cur h _)
  rw [dataSlots_read_check hop, List.append_assoc, ← List.append_assoc front] at hslots
  have hbefore : ∀ x ∈ front ++ readRun leg l.length, (x.pos != .data leg l.length) = true := by
    intro x hx
    rcases List.mem_append.mp hx with h | h
    · simpa using hfront x h l.length
    · obtain ⟨i, hi, rfl⟩ := List.mem_map.mp h
      have hlt : i ≠ l.length := by have := List.mem_range.mp hi; omega
      simpa using hlt
  have hrun : b.complete = front ++ readRun leg l.length := by
    rw [hcomplete, hslots, List.takeWhile_append_of_pos hbefore]
    simp [checkSlot]
  have hfour := crossed_append (hclosed rfl) (readRun leg l.length ++ [cur]) rx
  have hcount : readCount front + l.length = rx.length := by
    rw [hlen, hrun, readCount_append, readCount_readRun]
  have hlast := getLast_crossed_check (acc := []) hkind (xs := readRun leg l.length)
    (fun x hx => by obtain ⟨i, _, rfl⟩ := List.mem_map.mp hx; rfl) (rx := rx.drop (readCount front))
    (by simp [readRun]; omega)
  have hdrop : rx.length - l.length = readCount front := by omega
  rw [hrun, List.append_assoc, hfour, lastByte, List.getLast?_append, hlast, hdrop]
  rfl

end Sys2Proof.Machine
end

section
/-! Attempts that end without success: retried, failed, abandoned (R60, R61, R64, R97, R98, R101, R116). -/

namespace Sys2Proof.Machine

/-! ### A retry (R60) -/

/-- A retry gap of 10 us or more has not run out when it begins. -/
theorem Time.not_atOrAfter_add_gap {g : Nat} (h1 : 1 ≤ g) (h2 : g ≤ 255) (now : Time) :
    Time.atOrAfter now (now + BitVec.ofNat 32 (10 * g)) = false := by
  unfold Time.atOrAfter
  have hgap : (now - (now + BitVec.ofNat 32 (10 * g))).toNat = 2 ^ 32 - 10 * g := by bv_omega
  simp only [hgap, decide_eq_false_iff_not]
  omega

/-- In RETRY_WAIT the gap alone may be taken, and before its expiry nothing is (R61). -/
theorem Part.nextEvent_gap_none {s : Part} {m : PassMode} {c : Context} {e : Time} (hgap : c.gapExpiry = some e)
    (hdue : Time.atOrAfter s.time.count e = false) : s.nextEvent m c { Fresh.none with gap := true } = none := by
  refine Part.nextEvent_eq_none (fun ev hev => ?_)
  cases ev with
  | gap =>
    unfold Part.eventDue Context.armedAt
    simp only
    split
    · rw [hgap]; exact hdue
    · rfl
  | arrival | window | overtake => cases hev

/-- There a card's work rests. -/
theorem Part.finish_gap {s : Part} {m : PassMode} {n : CardIx} {c : Context} {e : Time} (hgap : c.gapExpiry = some e)
    (hdue : Time.atOrAfter s.time.count e = false) :
    Part.finish m n (s.setCtx n (some c), .settle { Fresh.none with gap := true }) = s.setCtx n (some c) :=
  Part.finish_settled (Part.setCtx_ctx_self _ _ _) (Part.nextEvent_gap_none (s := s.setCtx n (some c)) hgap hdue)

theorem Part.lastOf_eq {s : Part} {a : Attempt} {start : Time} (h : a.start = some start) :
    s.lastOf a s.now = s.endedNow a start := by
  simp only [Part.lastOf, h, Option.getD_some]
  rfl

/-- An outcome that may be retried is, while no end is pending and the tally is below the limit (R60). -/
theorem Context.verdict_retry {a : Attempt} {c : Context} {o : AttemptOutcome} {code : ResultCode}
    (ho : o.class = .retryable code) (hr : retries a c) : c.verdict a.entry.retryLimit o = .retry := by
  obtain ⟨hend, htally, _⟩ := hr
  simp [Context.verdict, ho, hend, htally]

/-- An outcome that is no yield leaves the context with the last attempt alone. -/
theorem Part.afterAttempt_eq {s : Part} {c : Context} {a : Attempt} {o : AttemptOutcome} {stop : Time} (ho : o.class ≠ .yields) :
    s.afterAttempt c a o stop = { c with last := some (s.lastOf a stop) } := by
  simp [Part.afterAttempt, ho]

/-- The end of an attempt with an error: its record, then what the verdict asks for. -/
theorem Part.attemptEnded_error {s : Part} {a : Attempt} {c : Context} {o : AttemptOutcome} {kind : FaultKind}
    (hctx : s.ctx a.card = some c) (hkind : o.recordKind = some kind) (port : PortIx) (p : BusPoint) :
    let v := c.verdict a.entry.retryLimit o
    s.attemptEnded port a o s.now p =
      (Part.finish .plain a.card
        ((s.request (s.errorRecord kind port a c v.disposition v.result p.phase p.leg p.byteIndex p.lastAddress p.lastByte
          p.levels)).actOn a (s.afterAttempt c a o s.now) s.now o.data v)).tryStop := by
  intro v
  unfold Part.attemptEnded
  rw [hctx, hkind]
  rfl

/-- What a retry leaves to do: nothing but to wait for the gap. -/
theorem Part.actOn_retry (s : Part) (a : Attempt) (c : Context) (start : Time) (data : List Byte) (t : Part) :
    t.actOn a { c with last := some (s.endedNow a start) } s.now data .retry =
      (t.setCtx a.card (some (c.retrying a (s.endedNow a start))), .settle { Fresh.none with gap := true }) := rfl

/-- A retry: the record marked RETRIED, and the wait for the retry gap (R60, R61). -/
theorem Part.attemptEnded_retries {s : Part} {a : Attempt} {start : Time} {c : Context} {o : AttemptOutcome} {kind : FaultKind}
    {code : ResultCode} (hrun : s.run.state = .running) (hstart : a.start = some start) (hctx : s.ctx a.card = some c)
    (ho : o.class = .retryable code) (hkind : o.recordKind = some kind) (hr : retries a c) (port : PortIx) (p : BusPoint) :
    s.attemptEnded port a o s.now p =
      (s.request (s.errorRecord kind port a c .retried .none p.phase p.leg p.byteIndex p.lastAddress p.lastByte
        p.levels)).setCtx a.card (some (c.retrying a (s.endedNow a start))) := by
  have ⟨_, _, hgap1, hgap2⟩ := hr
  have hgap : (c.retrying a (s.endedNow a start)).gapExpiry = some (s.now + BitVec.ofNat 32 (10 * a.entry.retryGap)) := rfl
  rw [Part.attemptEnded_error hctx hkind, Context.verdict_retry ho hr, Part.afterAttempt_eq (by simp [ho]),
    Part.lastOf_eq hstart]
  rw [Part.actOn_retry, Part.finish_gap (s := s.request _) hgap (Time.not_atOrAfter_add_gap hgap1 hgap2 s.now)]
  exact Part.tryStop_of_running (s := (s.request _).setCtx _ _) hrun

/-! ### An abandoned attempt (R64) -/

/-- A request writes the word of the log's counters alone (R141). -/
theorem Reports.request_mem {r : Reports} (hm : r.mem.wf = true) (state : RunState) (level : LogLevel) (f : FaultRecord) :
    (r.request state level f).mem.wf = true ∧
      ∀ a : Nat, 0x004C ≤ a → (r.request state level f).mem.get a = r.mem.get a := by
  rcases r.request_cases state level f with h | ⟨h, _⟩ | h
  · rw [h]; exact ⟨hm, fun _ _ => rfl⟩
  · rw [h]; exact ⟨hm, fun _ _ => rfl⟩
  · rw [h, Reports.loseRecord_eq]
    exact ⟨Memory.wf_setWord hm _ _, fun a ha => Memory.get_setWord_outside hm _ (by omega)⟩

/-- Under a pending end no outcome but a success leads on (R64). -/
theorem Context.verdict_abandon {c : Context} {o : AttemptOutcome} {limit : Nat} (ho : o.class ≠ .success)
    (hend : c.pendingEnd ≠ .none) : c.verdict limit o = .abandon := by
  unfold Context.verdict
  cases hclass : o.class <;> simp_all

/-- An attempt abandoned under a pending end: its record marked ENDING, and the card's end (R62, R64). -/
theorem Part.attemptEnded_abandoned {s : Part} {a : Attempt} {start : Time} {c : Context} {o : AttemptOutcome} {kind : FaultKind}
    {state : ProgressState} {result : ResultCode} (hrun : s.run.state = .running) (hstart : a.start = some start)
    (hctx : s.ctx a.card = some c) (ho : o.class ≠ .success) (hyields : o.class ≠ .yields) (hkind : o.recordKind = some kind)
    (hend : c.pendingEnd.asEnd = some (state, result)) (port : PortIx) (p : BusPoint) :
    s.attemptEnded port a o s.now p =
      (s.request (s.errorRecord kind port a c .ending .none p.phase p.leg p.byteIndex p.lastAddress p.lastByte
        p.levels)).endCard a.card { c with last := some (s.endedNow a start) } state result := by
  have hne : c.pendingEnd ≠ .none := fun h => by rw [h] at hend; cases hend
  have hact : ∀ t : Part, t.actOn a { c with last := some (s.endedNow a start) } s.now o.data .abandon =
      t.endCardWork a.card { c with last := some (s.endedNow a start) } state result .none := by
    intro t
    unfold Part.actOn
    simp only [hend]
  rw [Part.attemptEnded_error hctx hkind, Context.verdict_abandon ho hne, Part.afterAttempt_eq hyields, Part.lastOf_eq hstart,
    hact, Part.endCardWork, Part.finish_free (Part.endCard_ctx _ _ _ _ _)]
  exact Part.tryStop_of_running (s := (s.request _).endCard _ _ _ _) hrun

/-! ### A failure counted (R16, R53, R57, R135) -/

theorem Context.counted_failed {c : Context} {la : LastAttempt} (h : c.last = some la) :
    c.counted true =
      { c with
        run := c.run + 1#32, failed := c.failed + 1#32, retriesTotal := c.retriesTotal.saturatingAdd c.retryTally
        yieldsTotal := c.yieldsTotal.saturatingAdd c.yieldTally, deviceUsed := byteOf la.device.val } := by
  simp only [Context.counted, h, if_true]

/-- The counters of a failure after an attempt, with the words they are written to (R135, step 4). -/
def failureWords (n : CardIx) (c : Context) (la : LastAttempt) : List (Nat × Word) :=
  [(Addr.progress n + 8, c.run), (Addr.progress n + 16, c.failed),
    (Addr.progress n + 20, Word.ofHalves c.retriesTotal c.yieldsTotal), (Addr.progress n + 24, la.start),
    (Addr.progress n + 28, la.stop)]

theorem Part.writeCounters_failure {s : Part} {c : Context} {la : LastAttempt} (h : c.last = some la) (n : CardIx) :
    s.writeCounters n c true =
      s.report (fun r => { r with
        mem := (r.mem.setWord (Addr.progress n) c.liveWord).setList (failureWords n c la) }) := by
  simp only [Part.writeCounters, h, Option.isSome_some, if_true, Part.writeProgressWord, Part.writeLive, Part.report,
    Reports.writeProgress, Memory.setList, failureWords, List.foldl_cons, List.foldl_nil]

/-- The memory after the counters of a failure: its count, and nothing outside the card's progress half. -/
theorem Memory.failureWords_spec {m : Memory} (hm : m.wf = true) (n : CardIx) (c : Context) (la : LastAttempt) :
    let m' := (m.setWord (Addr.progress n) c.liveWord).setList (failureWords n c la)
    m'.wf = true ∧ m'.word (Addr.progress n + 16) = c.failed ∧
      ∀ a : Nat, ¬(Addr.progress n ≤ a ∧ a < Addr.progress n + 32) → m'.get a = m.get a := by
  intro m'
  have hlive := Memory.wf_setWord hm (Addr.progress n) c.liveWord
  refine ⟨Memory.wf_setList _ hlive, Memory.word_setList_of_mem (by simp [failureWords]) (by simp [failureWords]) hlive,
    fun a ha => ?_⟩
  refine (Memory.get_setList_outside (fun x hx => ?_) hlive).trans (Memory.get_setWord_outside hm _ (by omega))
  simp only [failureWords, List.mem_cons, List.not_mem_nil, or_false] at hx
  rcases hx with rfl | rfl | rfl | rfl | rfl <;> simp only <;> omega

/-- A failure after an attempt that ends its card: the counters, then the card's end. -/
def Part.failedWith (s : Part) (n : CardIx) (c : Context) (code : ResultCode) : Part :=
  (s.writeCounters n (c.counted true) true).endCard n (c.counted true) .failed code

/-- What the end of a card leaves of the reports: the queue, and every byte but its progress word and its word of the done map. -/
theorem Part.endCard_kept {s : Part} (hm : s.rep.mem.wf = true) (n : CardIx) (c : Context) (state : ProgressState)
    (result : ResultCode) :
    let t := s.endCard n c state result
    t.rep.queue = s.rep.queue ∧
      ∀ a : Nat, (Addr.progress n + 4 ≤ a ∧ a < Addr.progress n + 32) ∨ ¬Addr.ofCardReport n a →
        t.rep.mem.get a = s.rep.mem.get a := by
  intro t
  have ht : t = _ := Part.endCard_eq s n c state result
  rw [ht]
  exact ⟨rfl, (Reports.endWord_mem hm n _).2⟩

/-- The counters of a failure, and what they leave. -/
theorem Part.writeCounters_failure_spec {s : Part} (hm : s.rep.mem.wf = true) {c : Context} {la : LastAttempt} (h : c.last = some la)
    (n : CardIx) :
    (s.writeCounters n c true).rep.mem.wf = true ∧ (s.writeCounters n c true).rep.mem.word (Addr.progress n + 16) = c.failed ∧
      (s.writeCounters n c true).rep.queue = s.rep.queue ∧
      ∀ a : Nat, ¬(Addr.progress n ≤ a ∧ a < Addr.progress n + 32) → (s.writeCounters n c true).rep.mem.get a = s.rep.mem.get a := by
  have hmem : (s.writeCounters n c true).rep.mem =
      (s.rep.mem.setWord (Addr.progress n) c.liveWord).setList (failureWords n c la) := by
    rw [Part.writeCounters_failure h n]; simp only [Part.report]
  have hqueue : (s.writeCounters n c true).rep.queue = s.rep.queue := by
    rw [Part.writeCounters_failure h n]; simp only [Part.report]
  obtain ⟨hwf, hword, hout⟩ := Memory.failureWords_spec hm n c la
  rw [hmem]
  exact ⟨hwf, hword, hqueue, hout⟩

/-- Such an end shows FAILED with its code and the failure counted; of the reports it leaves the queue and the bytes of others. -/
theorem Part.failedWith_spec {s : Part} (hm : s.rep.mem.wf = true) {n : CardIx} {c : Context} {la : LastAttempt}
    (h : c.last = some la) (code : ResultCode) :
    let t := s.failedWith n c code
    t.cardEnded n c.generation .failed code ∧ t.rep.mem.word (Addr.progress n + 16) = c.failed + 1#32 ∧
      t.rep.queue = s.rep.queue ∧ ∀ a : Nat, ¬Addr.ofCardReport n a → t.rep.mem.get a = s.rep.mem.get a := by
  intro t
  have hcounted := Context.counted_failed h
  have hlast : (c.counted true).last = some la := by rw [hcounted]; exact h
  have hgen : (c.counted true).generation = c.generation := by rw [hcounted]
  have hfailed : (c.counted true).failed = c.failed + 1#32 := by rw [hcounted]
  obtain ⟨hwf, hword, hqueue, hout⟩ := Part.writeCounters_failure_spec hm hlast n
  obtain ⟨hqueue', hkept⟩ := Part.endCard_kept hwf n (c.counted true) .failed code
  refine ⟨?_, ?_, hqueue'.trans hqueue, fun a ha => (hkept a (Or.inr ha)).trans (hout a (fun hin => ha (Or.inl hin)))⟩
  · rw [← hgen]
    exact Part.endCard_cardEnded hwf n _ .failed code
  · rw [← hfailed, ← hword]
    exact Memory.word_congr (fun b h1 h2 => hkept b (Or.inl (by omega)))

theorem Part.failedWith_ctx (s : Part) (n : CardIx) (c : Context) (code : ResultCode) : (s.failedWith n c code).ctx n = none :=
  Part.endCard_ctx _ _ _ _ _

/-- A card of which a failure is the end: a ONCE card, and an unbounded EVERY card under STOP_ON_ERROR (R53, R57). -/
def Context.failureEnds (c : Context) : Prop :=
  c.kind = .once ∨ (c.kind = .every ∧ c.count = 0 ∧ c.flags.stopOnError = true)

/-- The failure of an attempt of such a card, without a bank and with no end pending. -/
theorem Part.endInstance_failure {c : Context} {la : LastAttempt} {code : ResultCode} (h : c.last = some la) (hbank : c.bankCount = 0)
    (hend : c.pendingEnd = .none) (hcard : c.failureEnds) (hcode : code ≠ .ok) (s : Part) (n : CardIx) (f : Fresh) :
    s.endInstance n c code [] f = (s.failedWith n c code, .settle f) := by
  have hsample : s.resultSample n c code [] = { part := s, ctx := c, invalid := false } := by
    simp only [Part.resultSample, h, hbank, if_true]
  have hfailed : (code != .ok) = true := by simpa using hcode
  have hcounted := Context.counted_failed h
  have hpending : (c.counted true).pendingEnd.asEnd = none := by rw [hcounted]; simp only [hend, PendingEnd.asEnd]
  unfold Part.endInstance
  simp only [hsample, hfailed]
  unfold Part.afterEnd
  simp only [hpending, Bool.false_eq_true, if_false]
  rcases hcard with hkind | ⟨hkind, hcount, hstop⟩
  · have hkind' : (c.counted true).kind = .once := by rw [hcounted]; exact hkind
    rw [hkind']
    simp only [hcode, if_false]
    rfl
  · have hkind' : (c.counted true).kind = .every := by rw [hcounted]; exact hkind
    have hused : (c.counted true).countUsed = false := by
      rw [hcounted]; simp [Context.countUsed, hcount]
    have hstop' : (c.counted true).flags.stopOnError = true := by rw [hcounted]; exact hstop
    rw [hkind']
    simp only [hused, hcode, hstop', Bool.false_eq_true, if_false, ne_eq, not_false_eq_true, and_self, if_true]
    rfl

/-! ### A failure of an attempt (R60, R75) -/

/-- A failure charged to a device changes the run state of nothing. -/
theorem Part.deviceFailed_run (s : Part) (a : Attempt) (g : Byte) (code : ResultCode) : (s.deviceFailed a g code).run = s.run := by
  unfold Part.deviceFailed
  simp only
  split
  · rw [Part.changeDevice_eq]
  · split
    · unfold Part.fenceDevice
      simp only
      rw [(reresolveWhere_onlyCards _ _).run, Part.changeDevice_eq]
      simp only [Part.requestIf]
      split <;> rfl
    · rw [Part.changeDevice_eq]

/-- The device of a failure that is not FENCED and stays below its threshold is SUSPECT with one fault more (R75, R77). -/
theorem Part.deviceFailed_below {s : Part} {a : Attempt} (hhealth : (s.dev.get a.device).health ≠ .fenced)
    (hbelow : a.entry.threshold = 0 ∨ min 15 ((s.dev.get a.device).faults + 1) < a.entry.threshold) (g : Byte) (code : ResultCode) :
    s.deviceFailed a g code =
      s.changeDevice (s.dev.put a.device
        { s.dev.get a.device with health := .suspect, faults := min 15 ((s.dev.get a.device).faults + 1) }) a.device := by
  have hnot : ¬(a.entry.threshold ≠ 0 ∧ a.entry.threshold ≤ min 15 ((s.dev.get a.device).faults + 1)) := by omega
  unfold Part.deviceFailed
  simp only
  rw [if_neg hhealth, if_neg hnot]

/-- An attempt whose failure ends its card: its record marked ENDING, the failure charged to the device, and the card's end. -/
theorem Part.attemptEnded_fails {s : Part} {a : Attempt} {c : Context} {o : AttemptOutcome} {kind : FaultKind} {code : ResultCode}
    {la : LastAttempt} (hrun : s.run.state = .running) (hctx : s.ctx a.card = some c) (hkind : o.recordKind = some kind)
    (hverdict : c.verdict a.entry.retryLimit o = .fail code) (hcode : code ≠ .ok) {x : Context}
    (hx : s.afterAttempt c a o s.now = x) (hlast : x.last = some la) (hgen : x.generation = c.generation)
    (hbank : x.bankCount = 0) (hend : x.pendingEnd = .none) (hcard : x.failureEnds) (port : PortIx) (p : BusPoint) :
    s.attemptEnded port a o s.now p =
      ((s.request (s.errorRecord kind port a c .ending code p.phase p.leg p.byteIndex p.lastAddress p.lastByte
        p.levels)).deviceFailed a c.generation code).failedWith a.card x code := by
  have hact : ∀ t : Part, t.actOn a x s.now o.data (.fail code) =
      (t.deviceFailed a c.generation code).endInstance a.card x code [] .none := fun t => by rw [Part.actOn, hgen]
  rw [Part.attemptEnded_error hctx hkind, hverdict, hx, hact, Part.endInstance_failure hlast hbank hend hcard hcode,
    Part.finish_free (Part.failedWith_ctx _ _ _ _)]
  refine Part.tryStop_of_running ?_
  have hkept : ∀ t : Part, (t.failedWith a.card x code).run = t.run := fun t => by
    rw [Part.failedWith, Part.endCard_eq, Part.writeCounters_failure (la := la) (by rw [Context.counted_failed hlast]; exact hlast)]
    simp only [Part.report]
  rw [hkept, Part.deviceFailed_run]
  exact hrun

end Sys2Proof.Machine
end

section
/-! The ends of attempts on the ports: refused and wrong bytes, lost arbitrations and misplaced conditions on a two-wire port, and the
check mismatch of a four-wire port (R60, R90, R97 to R101, R116). -/

namespace Sys2Proof.Machine

/-! ### A stop after a refused or wrong byte (R97, R98) -/

/-- The attempt ends on a port that has driven its stop. -/
theorem Part.endByStop_eq (s : Part) (p : TwoIx) (a : Attempt) (o : AttemptOutcome) (point : BusPoint) (wire : List BusItem) :
    s.endByStop p a o point wire = (s.stopDriven p (wire ++ [.stop])).attemptEnded (twoPort p) a o s.now point := rfl

/-- The traffic of an attempt that ends with a stop after a byte that is refused or wrong. -/
def stoppedWire (b : Before) (rx : List Byte) (items : List BusItem) : List BusItem :=
  (twoTrace (crossed b.complete rx []) ++ items) ++ [.stop]

theorem stoppedWire_getLast (b : Before) (rx : List Byte) (items : List BusItem) : (stoppedWire b rx items).getLast? = some .stop :=
  List.getLast?_concat

/-- The trace of a byte that is refused. -/
def refusedItems (cur : Slot) (byte : Byte) : List BusItem := (Crossed.twoItems { slot := cur, byte := byte }).map BusItem.refused

section
variable {s : Part} {p : TwoIx} {a : Attempt} {start : Time} {c : Context} {b : Before} {cur : Slot} {rx : List Byte} {pos : BusPos}

/-- A byte that the device refuses ends the attempt with a stop. -/
theorem Part.refusedByte_eq (h : s.carriesOut p a start c) (hat : atByte a c pos rx b cur) {f : SlotKind → Option Byte} {byte : Byte}
    (hf : f cur.kind = some byte) (o : AttemptOutcome) (levels : BitVec 2) :
    s.refusedByte p o pos rx levels f =
      (s.stopDriven p (stoppedWire b rx (refusedItems cur byte))).attemptEnded (twoPort p) a o s.now
        (pointAt pos c.legs.length (lastAddress (b.complete ++ [cur])) byte (twoLevels levels)) := by
  obtain ⟨hloc, hcur⟩ := hat
  unfold Part.refusedByte
  simp only [Part.twoCourse_of_carriesOut h, hloc, hcur, hf]
  rfl

/-- A received check byte that is wrong ends the attempt with a stop. -/
theorem Part.wrongCheck_eq (h : s.carriesOut p a start c) (hat : atByte a c pos rx b cur) (hkind : cur.kind = .readCheck) {got : Byte}
    (hgot : got ≠ lastByte (crossed (b.complete ++ [cur]) rx [])) (levels : BitVec 2) :
    s.wrongCheck p pos rx got levels =
      (s.stopDriven p (stoppedWire b rx [.received got false])).attemptEnded (twoPort p) a .checkMismatch s.now
        (pointAt pos c.legs.length (lastAddress (b.complete ++ [cur])) got (twoLevels levels)) := by
  obtain ⟨hloc, hcur⟩ := hat
  unfold Part.wrongCheck
  simp only [Part.twoCourse_of_carriesOut h, hloc, hcur]
  rw [if_pos ⟨hkind, hgot⟩]
  rfl

theorem Part.legLength_eq (h : s.carriesOut p a start c) {leg : Nat} {l : Leg} (hleg : c.legs[leg]? = some l) :
    s.legLength p leg = some l.length := by
  simp [Part.legLength, Part.twoCourse_of_carriesOut h, hleg]

theorem Part.dataNack_eq (h : s.carriesOut p a start c) {leg i : Nat} {l : Leg} (hleg : c.legs[leg]? = some l) (hi : i < l.length)
    (levels : BitVec 2) :
    s.dataNack p leg i rx levels = s.refusedByte p .dataNack (.data leg i) rx levels SlotKind.outByte := by
  unfold Part.dataNack
  rw [Part.legLength_eq h hleg]
  simp only
  rw [if_pos hi]

theorem Part.checkMismatch_refused (h : s.carriesOut p a start c) {leg : Nat} {l : Leg} (hleg : c.legs[leg]? = some l)
    (rx : List Byte) (levels : BitVec 2) :
    s.checkMismatch p leg rx none levels =
      s.refusedByte p .checkMismatch (.data leg l.length) rx levels SlotKind.outByte := by
  simp only [Part.checkMismatch, Part.legLength_eq h hleg]

theorem Part.checkMismatch_wrong (h : s.carriesOut p a start c) {leg : Nat} {l : Leg} (hleg : c.legs[leg]? = some l)
    (rx : List Byte) (got : Byte) (levels : BitVec 2) :
    s.checkMismatch p leg rx (some got) levels = s.wrongCheck p (.data leg l.length) rx got levels := by
  simp only [Part.checkMismatch, Part.legLength_eq h hleg]

/-- The part after the stop carries the same attempt out to its end. -/
theorem Part.stopDriven_ctx (h : s.carriesOut p a start c) (wire : List BusItem) : (s.stopDriven p wire).ctx a.card = some c := h.2.2

/-- A stop with a retry left: the record marked RETRIED, and the wait for the retry gap. -/
theorem Part.stopDriven_retries (hrun : s.run.state = .running) (h : s.carriesOut p a start c) {o : AttemptOutcome}
    {kind : FaultKind} {code : ResultCode} (ho : o.class = .retryable code) (hkind : o.recordKind = some kind) (hr : retries a c)
    (wire : List BusItem) (point : BusPoint) :
    (s.stopDriven p wire).attemptEnded (twoPort p) a o s.now point =
      (((s.setTwo p ((s.twoAt p).afterStop s.time.count wire)).request
        (s.errorRecord kind (twoPort p) a c .retried .none point.phase point.leg point.byteIndex point.lastAddress point.lastByte
          point.levels)).setCtx a.card (some (c.retrying a (s.endedNow a start)))) :=
  Part.attemptEnded_retries (s := s.stopDriven p wire) hrun h.2.1 (Part.stopDriven_ctx h wire) ho hkind hr (twoPort p) point

end

/-- A byte that is sent in a leg, or a check byte that is received, is no address byte. -/
theorem Slot.addressByte_none {cur : Slot} (h : (∃ byte, cur.kind = .out byte) ∨ cur.kind = .readCheck) : cur.addressByte = none := by
  rcases h with ⟨byte, h⟩ | h <;> simp [Slot.addressByte, h]

/-! ### A failure below the threshold (R75, R77) -/

/-- A device that is charged with a failure and stays below its threshold (R75). -/
def DeviceRecord.suspected (r : DeviceRecord) : DeviceRecord := { r with health := .suspect, faults := min 15 (r.faults + 1) }

theorem Part.failedWith_eq {s : Part} {c : Context} {la : LastAttempt} (h : c.last = some la) (n : CardIx) (code : ResultCode) :
    s.failedWith n c code = { s with rep := (s.failedWith n c code).rep, ctxs := s.ctxs.set n.val none n.isLt } := by
  have hlast : (c.counted true).last = some la := by rw [Context.counted_failed h]; exact h
  rw [Part.failedWith, Part.endCard_eq, Part.writeCounters_failure hlast]
  simp only [Part.report]

/-- The end of a card whose attempt fails, its device below the threshold: beside the reports, the device's record and the context
nothing changes. -/
theorem Part.failed_below {s : Part} (hm : s.rep.mem.wf = true) (f : FaultRecord) {a : Attempt} {x : Context} {la : LastAttempt}
    (hhealth : (s.dev.get a.device).health ≠ .fenced)
    (hbelow : a.entry.threshold = 0 ∨ min 15 ((s.dev.get a.device).faults + 1) < a.entry.threshold) (hlast : x.last = some la)
    (g : Byte) (code : ResultCode) :
    let t := ((s.request f).deviceFailed a g code).failedWith a.card x code
    t = { s with
          rep := t.rep, dev := s.dev.put a.device (s.dev.get a.device).suspected
          ctxs := s.ctxs.set a.card.val none a.card.isLt } ∧
      t.cardEnded a.card x.generation .failed code ∧ t.rep.mem.word (Addr.progress a.card + 16) = x.failed + 1#32 ∧
        t.rep.queue = (s.rep.request s.run.state s.logLevel f).queue := by
  intro t
  have hdevice := (Part.deviceFailed_below (s := s.request f) hhealth hbelow g code).trans (Part.changeDevice_eq _ _ _)
  have hwf : ((s.request f).deviceFailed a g code).rep.mem.wf = true := by
    rw [hdevice]
    exact Memory.wf_withStatus (Reports.request_mem hm _ _ f).1 _ _ _
  obtain ⟨hended, hword, hqueue, _⟩ := Part.failedWith_spec hwf hlast code (n := a.card)
  refine ⟨(Part.failedWith_eq hlast a.card code).trans ?_, hended, hword, hqueue.trans (by rw [hdevice]; rfl)⟩
  change { (s.request f).deviceFailed a g code with
    rep := t.rep, ctxs := ((s.request f).deviceFailed a g code).ctxs.set a.card.val none a.card.isLt } = _
  rw [hdevice]
  rfl

/-- An attempt whose failure ends its card, its device below the threshold. -/
theorem Part.attemptEnded_fails_below {s : Part} (hm : s.rep.mem.wf = true) {a : Attempt} {c : Context} {o : AttemptOutcome}
    {kind : FaultKind} {code : ResultCode} {la : LastAttempt} (hrun : s.run.state = .running) (hctx : s.ctx a.card = some c)
    (hkind : o.recordKind = some kind) (hverdict : c.verdict a.entry.retryLimit o = .fail code) (hcode : code ≠ .ok) {x : Context}
    (hx : s.afterAttempt c a o s.now = x) (hlast : x.last = some la) (hgen : x.generation = c.generation)
    (hcount : x.failed = c.failed) (hbank : x.bankCount = 0) (hend : x.pendingEnd = .none) (hcard : x.failureEnds)
    (hhealth : (s.dev.get a.device).health ≠ .fenced)
    (hbelow : a.entry.threshold = 0 ∨ min 15 ((s.dev.get a.device).faults + 1) < a.entry.threshold) (port : PortIx) (p : BusPoint) :
    ∃ r : Reports,
      let t := { s with
        rep := r, dev := s.dev.put a.device (s.dev.get a.device).suspected, ctxs := s.ctxs.set a.card.val none a.card.isLt }
      s.attemptEnded port a o s.now p = t ∧ t.cardEnded a.card c.generation .failed code ∧
        r.mem.word (Addr.progress a.card + 16) = c.failed + 1#32 ∧
        r.queue = (s.rep.request .running s.logLevel (s.errorRecord kind port a c .ending code p.phase p.leg p.byteIndex
          p.lastAddress p.lastByte p.levels)).queue := by
  have hfails := Part.attemptEnded_fails hrun hctx hkind hverdict hcode hx hlast hgen hbank hend hcard port p
  obtain ⟨hpart, hended, hword, hqueue⟩ := Part.failed_below hm (s.errorRecord kind port a c .ending code p.phase p.leg p.byteIndex
    p.lastAddress p.lastByte p.levels) hhealth hbelow hlast c.generation code
  rw [hgen] at hended
  rw [hcount] at hword
  rw [hrun] at hqueue
  exact ⟨_, hfails.trans hpart, hpart ▸ hended, hword, hqueue⟩

/-- The end of a card whose attempt is abandoned. -/
theorem Part.attemptEnded_abandons {s : Part} (hm : s.rep.mem.wf = true) {a : Attempt} {start : Time} {c : Context}
    {o : AttemptOutcome} {kind : FaultKind} {state : ProgressState} {result : ResultCode} (hrun : s.run.state = .running)
    (hstart : a.start = some start) (hctx : s.ctx a.card = some c) (ho : o.class ≠ .success) (hyields : o.class ≠ .yields)
    (hkind : o.recordKind = some kind) (hend : c.pendingEnd.asEnd = some (state, result)) (port : PortIx) (p : BusPoint) :
    ∃ t : Part, s.attemptEnded port a o s.now p = t ∧ t.cardEnded a.card c.generation state result ∧ t.two = s.two ∧ t.dev = s.dev ∧
      t.rep.queue = (s.rep.request .running s.logLevel (s.errorRecord kind port a c .ending .none p.phase p.leg p.byteIndex
        p.lastAddress p.lastByte p.levels)).queue ∧
      (∀ m, m ≠ a.card → t.ctx m = s.ctx m) ∧
      ∀ x : Nat, Addr.progress a.card + 4 ≤ x → x < Addr.progress a.card + 32 → t.rep.mem.get x = s.rep.mem.get x := by
  generalize hf : s.errorRecord kind port a c .ending .none p.phase p.leg p.byteIndex p.lastAddress p.lastByte p.levels = f
  have hdrop := Part.attemptEnded_abandoned hrun hstart hctx ho hyields hkind hend port p
  rw [hf] at hdrop
  obtain ⟨hwf, hrequest⟩ := Reports.request_mem hm s.run.state s.logLevel f
  obtain ⟨hqueue, hkept⟩ := Part.endCard_kept (s := s.request f) hwf a.card { c with last := some (s.endedNow a start) } state result
  have hhalf := Addr.progress_eq a.card
  refine ⟨_, hdrop, Part.endCard_cardEnded (s := s.request f) hwf _ _ _ _, rfl, rfl, ?_,
    fun m hmn => Part.endCard_ctx_other hmn _ _ _ _, fun x h1 h2 => ?_⟩
  · rw [hqueue, Part.request_rep, hrun]
  · exact (hkept x (Or.inl ⟨h1, h2⟩)).trans (hrequest x (by omega))

/-! ### Refused bytes and check mismatches (R97, R98) -/

/-- An address byte that is refused, with retries left. -/
theorem addressNack_retries {s : State} {p : TwoIx} {a : Attempt} {start : Time} {c : Context} {leg i : Nat} {rx : List Byte}
    {levels : BitVec 2} {b : Before} {cur : Slot} {byte : Byte} (hrun : s.part.run.state = .running)
    (h : s.part.carriesOut p a start c) (hat : atByte a c (.address leg i) rx b cur) (hkind : cur.kind = .address byte)
    (hr : retries a c) :
    ∃ wire : List BusItem, wire.getLast? = some .stop ∧
      exec (.addressNack p leg i rx levels) s = .next
        { s with part :=
          (((s.part.setTwo p ((s.part.twoAt p).afterStop s.part.time.count wire)).request
            (s.part.errorRecord .addressNack (twoPort p) a c .retried .none .address (byteOf leg) (byteOf i) byte byte
              (levels.setWidth 8))).setCtx a.card (some (c.retrying a (s.part.endedNow a start)))) } := by
  have hbyte : SlotKind.addressByte cur.kind = some byte := by rw [hkind]; rfl
  have hend := (Part.refusedByte_eq h hat hbyte .addressNack levels).trans (Part.stopDriven_retries hrun h rfl rfl hr _ _)
  rw [lastAddress_concat_address hkind] at hend
  exact ⟨_, stoppedWire_getLast _ _ _, next_congr hend⟩

/-- A wrong or refused check byte, with retries left. -/
theorem checkMismatch_retries {s : State} {p : TwoIx} {a : Attempt} {start : Time} {c : Context} {l : Leg} {leg : Nat} {rx : List Byte}
    {levels : BitVec 2} {b : Before} {cur : Slot} (hrun : s.part.run.state = .running) (h : s.part.carriesOut p a start c)
    (hleg : c.legs[leg]? = some l) (hat : atByte a c (.data leg l.length) rx b cur) (hr : retries a c) :
    let after := fun (got : Byte) (wire : List BusItem) =>
      ((s.part.setTwo p ((s.part.twoAt p).afterStop s.part.time.count wire)).request
        (s.part.errorRecord .checkMismatch (twoPort p) a c .retried .none .data (byteOf leg) (byteOf l.length)
          (lastAddress b.complete) got (levels.setWidth 8))).setCtx a.card (some (c.retrying a (s.part.endedNow a start)))
    (∀ byte : Byte, cur.kind = .out byte →
      ∃ wire : List BusItem, wire.getLast? = some .stop ∧
        exec (.checkMismatch p leg rx none levels) s = .next { s with part := after byte wire }) ∧
      (∀ got : Byte, cur.kind = .readCheck → got ≠ crc8 (rx.drop (rx.length - l.length)) →
        ∃ wire : List BusItem, wire.getLast? = some .stop ∧
          exec (.checkMismatch p leg rx (some got) levels) s = .next { s with part := after got wire }) := by
  intro after
  refine ⟨fun byte hkind => ?_, fun got hkind hgot => ?_⟩
  · have hbyte : SlotKind.outByte cur.kind = some byte := by rw [hkind]; rfl
    have hend := (Part.checkMismatch_refused h hleg rx levels).trans
      ((Part.refusedByte_eq h hat hbyte .checkMismatch levels).trans (Part.stopDriven_retries hrun h rfl rfl hr _ _))
    rw [lastAddress_concat_other (Slot.addressByte_none (Or.inl ⟨byte, hkind⟩))] at hend
    exact ⟨_, stoppedWire_getLast _ _ _, next_congr hend⟩
  · have hlast := (legRuns_two c a.entry).lastByte_check hleg hat.1 hat.2 hkind
    have hend := (Part.checkMismatch_wrong h hleg rx got levels).trans
      ((Part.wrongCheck_eq h hat hkind (by rw [hlast]; exact hgot) levels).trans (Part.stopDriven_retries hrun h rfl rfl hr _ _))
    rw [lastAddress_concat_other (Slot.addressByte_none (Or.inr hkind))] at hend
    exact ⟨_, stoppedWire_getLast _ _ _, next_congr hend⟩

/-- The verdict on an outcome that may be retried, with the retry tally at its limit (R60). -/
theorem Context.verdict_exhausted {c : Context} {o : AttemptOutcome} {code : ResultCode} {limit : Nat}
    (ho : o.class = .retryable code) (hend : c.pendingEnd = .none) (htally : limit ≤ c.retryTally) :
    c.verdict limit o = .fail code := by
  simp [Context.verdict, ho, hend, Nat.not_lt.mpr htally]

/-- Settles O40: the retry, the failure with the tally at its limit, and the abandonment under a pending end. -/
theorem refusedByteRetries : Obligations.RefusedByteRetries := by
  refine ⟨fun s p a start c leg i rx levels b cur byte hrun h hat hkind hr => addressNack_retries hrun h hat hkind hr,
    fun s p a start c l leg rx levels b cur hrun h hleg hat hr => checkMismatch_retries hrun h hleg hat hr, ?_⟩
  intro s p a start c leg i rx levels b cur byte hm hrun h hat hkind record queue device faults
  have hbyte : SlotKind.addressByte cur.kind = some byte := by rw [hkind]; rfl
  have hstop := Part.refusedByte_eq h hat hbyte .addressNack levels
  rw [lastAddress_concat_address hkind] at hstop
  generalize stoppedWire b rx (refusedItems cur byte) = wire at hstop
  have hidle : ∀ t : Part, t.two = (s.part.stopDriven p wire).two → (t.twoAt p).state = .idle := fun t ht => by
    have hat : t.twoAt p = (s.part.stopDriven p wire).twoAt p := by unfold Part.twoAt; rw [ht]
    rw [hat, Part.stopDriven, Part.setTwo_twoAt, if_pos rfl]
    rfl
  refine ⟨fun honce hend hbank htally hhealth hbelow => ?_, fun state result hend => ?_⟩
  · obtain ⟨r, hpart, hended, hword, hqueue⟩ := Part.attemptEnded_fails_below (s := s.part.stopDriven p wire) hm hrun
      (Part.stopDriven_ctx h wire) rfl (Context.verdict_exhausted (o := .addressNack) rfl hend htally) (by decide)
      (Part.afterAttempt_eq (by decide)) rfl rfl rfl hbank hend (Or.inl honce) hhealth hbelow (twoPort p) _
    exact ⟨_, next_congr (hstop.trans hpart), hended, hidle _ rfl, rfl, hword, hqueue⟩
  · obtain ⟨t, hpart, hended, htwo, hdev, hqueue, hctx, hbytes⟩ := Part.attemptEnded_abandons (s := s.part.stopDriven p wire)
      (o := .addressNack) hm hrun h.2.1 (Part.stopDriven_ctx h wire) (by decide) (by decide) rfl hend (twoPort p) _
    exact ⟨_, next_congr (hstop.trans hpart), hended, hidle t htwo, hdev, hqueue, hctx, hbytes⟩

end Sys2Proof.Machine
end

section
/-! Attempts that end with a refused data byte, a lost arbitration, a misplaced condition, or the check mismatch of a four-wire port
(R60, R64, R90, R97, R99 to R101, R116). -/

namespace Sys2Proof.Machine

/-! ### A refused data byte (R97) -/

/-- A final outcome fails while no end is pending (R60). -/
theorem Context.verdict_final {c : Context} {o : AttemptOutcome} {code : ResultCode} {limit : Nat} (ho : o.class = .final code)
    (hend : c.pendingEnd = .none) : c.verdict limit o = .fail code := by
  simp [Context.verdict, ho, hend]

/-- Settles O41: a refused data byte fails the card whatever its retry limit. -/
theorem dataNackFailsInstance : Obligations.DataNackFailsInstance := by
  intro s p a start c l leg i rx levels b cur byte hm hrun h hat hkind hleg hi hcard hend hbank hhealth hbelow
  have hbyte : SlotKind.outByte cur.kind = some byte := by rw [hkind]; rfl
  have hstop := (Part.dataNack_eq (rx := rx) h hleg hi levels).trans (Part.refusedByte_eq h hat hbyte .dataNack levels)
  rw [lastAddress_concat_other (Slot.addressByte_none (Or.inl ⟨byte, hkind⟩))] at hstop
  obtain ⟨r, hpart, hended, hword, hqueue⟩ := Part.attemptEnded_fails_below
    (s := s.part.stopDriven p (stoppedWire b rx (refusedItems cur byte))) hm hrun (Part.stopDriven_ctx h _) rfl
    (Context.verdict_final (o := .dataNack) rfl hend) (by decide) (Part.afterAttempt_eq (by decide)) rfl rfl rfl hbank hend hcard
    hhealth hbelow (twoPort p) _
  exact ⟨r, stoppedWire b rx (refusedItems cur byte), next_congr (hstop.trans hpart), hended, stoppedWire_getLast _ _ _, hword, hqueue⟩

/-! ### A lost arbitration (R60, R90, R99) -/

/-- The port as a condition of another master leaves it in RUNNING: HELD with the view BUSY, its hold timer started (R99, R100). -/
theorem Part.twoIdle_held {s : Part} {h : Header} (hrun : s.run.state = .running) (hh : s.intake.header = some h) {t : TwoWire}
    (hview : t.viewBusy = true) :
    s.twoIdle t = { t with state := .held, holdTimer := some (s.time.count + BitVec.ofNat 32 (1000 * h.holdLimit)) } := by
  have hbusy : (t.viewBusy && s.run.state.live) = true := by rw [hview, hrun]; rfl
  have hexpiry : s.holdExpiry = some (s.time.count + BitVec.ofNat 32 (1000 * h.holdLimit)) := by
    rw [Part.holdExpiry, hh]; rfl
  rw [Part.twoIdle, if_pos hbusy, hexpiry]

/-- A port on which an arbitration has been lost, in RUNNING. -/
def TwoWire.lost (t : TwoWire) (now : Time) (h : Header) (wire : List BusItem) : TwoWire :=
  { t with
    state := .held, viewBusy := true, measureFrom := now, holdTimer := some (now + BitVec.ofNat 32 (1000 * h.holdLimit))
    wire := wire }

theorem Part.twoLost_eq {s : Part} {h : Header} (hrun : s.run.state = .running) (hh : s.intake.header = some h) (t : TwoWire)
    (wire : List BusItem) : s.twoLost t wire = t.lost s.time.count h wire := Part.twoIdle_held hrun hh rfl

/-- An outcome that yields leads on while no end is pending and the yield tally is below the limit (R60). -/
theorem Context.verdict_yield {c : Context} {o : AttemptOutcome} {limit : Nat} (ho : o.class = .yields) (hend : c.pendingEnd = .none) :
    c.verdict limit o = if c.yieldTally + 1 < 16 then .yieldAgain else .fail .yieldLimit := by
  simp [Context.verdict, ho, hend, Config.yieldLimit]

/-- A yield is counted. -/
theorem Part.afterAttempt_yields {s : Part} {c : Context} {a : Attempt} {o : AttemptOutcome} {stop : Time} (ho : o.class = .yields)
    (hend : c.pendingEnd = .none) :
    s.afterAttempt c a o stop = { c with last := some (s.lastOf a stop), yieldTally := c.yieldTally + 1 } := by
  simp [Part.afterAttempt, ho, hend]

/-- A yield below the limit: the record marked YIELDED, and the current work placed again without a window (R60, R61). -/
theorem Part.attemptEnded_yields {s : Part} {a : Attempt} {start : Time} {c : Context} {o : AttemptOutcome} {kind : FaultKind}
    {r : Resolution} (hrun : s.run.state = .running) (hstart : a.start = some start) (hctx : s.ctx a.card = some c)
    (ho : o.class = .yields) (hkind : o.recordKind = some kind) (hend : c.pendingEnd = .none) (htally : c.yieldTally + 1 < 16)
    (port : PortIx) (p : BusPoint) :
    let s0 := s.request (s.errorRecord kind port a c .yielded .none p.phase p.leg p.byteIndex p.lastAddress p.lastByte p.levels)
    s0.resolve c.device = .ok r →
    s.attemptEnded port a o s.now p =
      s0.setCtx a.card (some
        (({ c with last := some (s.endedNow a start), yieldTally := c.yieldTally + 1 } : Context).placed r none)) := by
  intro s0 hr
  have hplace : s0.actOn a { c with last := some (s.endedNow a start), yieldTally := c.yieldTally + 1 } s.now o.data .yieldAgain =
      (s0.setCtx a.card (some
        (({ c with last := some (s.endedNow a start), yieldTally := c.yieldTally + 1 } : Context).placed r none)), .settle .none) :=
    Part.placeInstance_ok (c := { c with last := some (s.endedNow a start), yieldTally := c.yieldTally + 1 }) hr a.card none .none
  rw [Part.attemptEnded_error hctx hkind, Context.verdict_yield ho hend, if_pos htally, Part.afterAttempt_yields ho hend,
    Part.lastOf_eq hstart]
  refine (congrArg (fun x => (Part.finish .plain a.card x).tryStop) hplace).trans ?_
  rw [Part.finish_settled (Part.setCtx_ctx_self _ _ _) (Part.nextEvent_none _ _ _)]
  exact Part.tryStop_of_running (s := s0.setCtx _ _) hrun

/-- The part with a port on which an arbitration has been lost. -/
def Part.arbitrationLost (s : Part) (p : TwoIx) (h : Header) (wire : List BusItem) : Part :=
  s.setTwo p ((s.twoAt p).lost s.time.count h wire)

/-- The traffic of an attempt that is cut in a byte: the bytes before it, then the lines released. -/
def cutWire (b : Before) (rx : List Byte) : List BusItem := twoTrace (crossed b.complete rx []) ++ [.released]

theorem cutWire_getLast (b : Before) (rx : List Byte) : (cutWire b rx).getLast? = some .released := List.getLast?_concat

/-- An arbitration lost in a byte that the part sends with a bit released high ends the attempt (R99). -/
theorem Part.arbLost_eq {s : Part} {p : TwoIx} {a : Attempt} {start : Time} {c : Context} {pos : BusPos} {rx : List Byte} {b : Before}
    {cur : Slot} {h : Header} (hrun : s.run.state = .running) (hcarries : s.carriesOut p a start c) (hat : atByte a c pos rx b cur)
    (hwhole : b.whole = false) (hsent : ∃ byte, byte ≠ 0#8 ∧ (cur.kind = .address byte ∨ cur.kind = .out byte))
    (hh : s.intake.header = some h) (levels : BitVec 2) :
    s.arbLost p pos rx levels =
      (s.arbitrationLost p h (cutWire b rx)).attemptEnded (twoPort p) a .arbLost s.now
        (pointAt pos c.legs.length b.lastAddress (lastByte (crossed b.complete rx [])) (twoLevels levels)) := by
  obtain ⟨hloc, hcur⟩ := hat
  have hpending : (s.twoAt p).pendingStart = none := by
    obtain ⟨⟨phase, hphase⟩, hstart, _⟩ := hcarries
    cases phase <;> simp [TwoWire.pendingStart, hphase, hstart]
  have hcontested : (!b.whole && b.current.any (fun x => x.kind.contested)) = true := by
    obtain ⟨byte, hne, hk | hk⟩ := hsent <;> simp [hwhole, hcur, hk, SlotKind.contested, hne]
  have hlastByte : b.lastByte rx = lastByte (crossed b.complete rx []) := by simp [Before.lastByte, hcur, hwhole]
  unfold Part.arbLost
  simp only [hpending, Part.twoCourse_of_carriesOut hcarries, hloc]
  rw [if_pos hcontested, Part.twoLost_eq hrun hh, hlastByte]
  rfl

/-- A start of another master before the part's own ends the attempt in phase START (R90, R99). -/
theorem Part.startSeen_eq {s : Part} {p : TwoIx} {a : Attempt} {h : Header} (hrun : s.run.state = .running)
    (hstate : (s.twoAt p).state = .active .start a) (hstart : a.start = none) (hh : s.intake.header = some h) :
    s.startSeen p =
      (s.arbitrationLost p h []).attemptEnded (twoPort p) { a with start := some s.now } .arbLost s.now
        { BusPoint.absent with phase := .start, levels := 0x01#8 } := by
  have hpending : (s.twoAt p).pendingStart = some a := by simp [TwoWire.pendingStart, hstate, hstart]
  unfold Part.startSeen
  simp only [hpending]
  rw [Part.loseStart, Part.twoLost_eq hrun hh]
  rfl

/-- Settles O43: the loss in a byte and in phase START below the yield limit, and the failure at it. -/
theorem arbitrationLossYields : Obligations.ArbitrationLossYields := by
  refine ⟨?_, ?_, ?_⟩
  · intro s p a start c pos rx levels b cur h r hrun hcarries hat hwhole hsent hend htally hh now place
    refine ⟨cutWire b rx, cutWire_getLast b rx, fun hr => ?_⟩
    exact next_congr ((Part.arbLost_eq hrun hcarries hat hwhole hsent hh levels).trans
      (Part.attemptEnded_yields (s := s.part.arbitrationLost p h (cutWire b rx)) hrun hcarries.2.1 hcarries.2.2 rfl rfl hend htally
        (twoPort p) _ hr))
  · intro s p a c h r hreset hrun hstate hstart hctx hend htally hh now s0 hr
    have hpart : s.part.unlessReset (fun q => q.startSeen p) = s.part.startSeen p := by
      rw [Part.unlessReset, if_neg (by simp [hreset])]
    refine next_congr (hpart.trans ((Part.startSeen_eq hrun hstate hstart hh).trans ?_))
    exact Part.attemptEnded_yields (s := s.part.arbitrationLost p h []) (a := { a with start := some s.part.now }) hrun rfl hctx rfl
      rfl hend htally (twoPort p) _ hr
  · intro s p a start c pos rx levels b cur h hm hrun hcarries hat hwhole hsent hend htally hh honce hbank device faults place
      hhealth hbelow
    obtain ⟨r, hpart, hended, _, hqueue⟩ := Part.attemptEnded_fails_below (s := s.part.arbitrationLost p h (cutWire b rx)) hm hrun
      hcarries.2.2 rfl ((Context.verdict_yield (o := .arbLost) rfl hend).trans (if_neg (Nat.not_lt.mpr htally))) (by decide)
      (Part.afterAttempt_yields rfl hend) rfl rfl rfl hbank hend (Or.inl honce) hhealth hbelow (twoPort p) _
    have hport : (s.part.arbitrationLost p h (cutWire b rx)).twoAt p = (s.part.twoAt p).lost s.part.time.count h (cutWire b rx) := by
      rw [Part.arbitrationLost, Part.setTwo_twoAt, if_pos rfl]
    exact ⟨_, next_congr ((Part.arbLost_eq hrun hcarries hat hwhole hsent hh levels).trans hpart), hended,
      congrArg TwoWire.state hport, congrArg TwoWire.viewBusy hport, congrArg TwoWire.holdTimer hport, rfl, hqueue⟩

/-! ### A misplaced condition (R101) -/

/-- A port after a misplaced stop, IDLE with the view FREE, or a misplaced start, HELD with the view BUSY. -/
def TwoWire.misplaced (t : TwoWire) (now : Time) (h : Header) (isStop : Bool) (wire : List BusItem) : TwoWire :=
  if isStop then
    { t with state := .idle, viewBusy := false, lastStop := now, measureFrom := now, holdTimer := none, wire := wire }
  else
    { t with state := .held, viewBusy := true, measureFrom := now, wire := wire
             holdTimer := some (now + BitVec.ofNat 32 (1000 * h.holdLimit)) }

theorem Part.twoIdle_misplaced {s : Part} {h : Header} (hrun : s.run.state = .running) (hh : s.intake.header = some h) (t : TwoWire)
    (isStop : Bool) (wire : List BusItem) :
    s.twoIdle { t with viewBusy := !isStop, lastStop := if isStop then s.now else t.lastStop, measureFrom := s.now, wire := wire } =
      t.misplaced s.time.count h isStop wire := by
  cases isStop with
  | true => rfl
  | false => exact Part.twoIdle_held hrun hh rfl

/-- A condition that does not come between bytes ends the attempt (R101). -/
theorem Part.busError_eq {s : Part} {p : TwoIx} {a : Attempt} {start : Time} {c : Context} {pos : BusPos} {rx : List Byte} {b : Before}
    {h : Header} (hrun : s.run.state = .running) (hcarries : s.carriesOut p a start c)
    (hloc : locateWith (c.twoSlots a.entry) c.legs.length pos rx = some b) (hbetween : ∀ l, pos ≠ .turn l ∧ pos ≠ .readdress l)
    (hh : s.intake.header = some h) (isStop : Bool) :
    s.busError p pos rx isStop =
      (s.setTwo p ((s.twoAt p).misplaced s.time.count h isStop (cutWire b rx))).attemptEnded (twoPort p) a .busError s.now
        (pointAt pos c.legs.length b.lastAddress (b.lastByte rx) (if isStop then 0x03#8 else 0x01#8)) := by
  have hwithin : withinTransfer pos = true := by
    cases pos with
    | turn l => exact absurd rfl (hbetween l).1
    | readdress l => exact absurd rfl (hbetween l).2
    | _ => rfl
  have hlevels : twoLevels (if isStop then 0b11#2 else 0b01#2) = if isStop then 0x03#8 else 0x01#8 := by cases isStop <;> rfl
  unfold Part.busError
  simp only [Part.twoCourse_of_carriesOut hcarries, hloc]
  rw [if_pos hwithin, Part.twoIdle_misplaced hrun hh, hlevels]
  rfl

/-- Settles O44: the misplaced condition, its record, and the last byte seen. -/
theorem busErrorRetries : Obligations.BusErrorRetries := by
  intro s p a start c pos rx isStop b h hrun hcarries hloc hbetween hr hh now t place
  refine ⟨cutWire b rx, cutWire_getLast b rx, ?_, fun cur hcur hwhole => ?_⟩
  · exact next_congr ((Part.busError_eq hrun hcarries hloc hbetween hh isStop).trans
      (Part.attemptEnded_retries (s := s.part.setTwo p (TwoWire.misplaced _ _ _ _ _)) hrun hcarries.2.1 hcarries.2.2 rfl rfl hr
        (twoPort p) _))
  · have hlast : b.lastByte rx = cur.crossedByte rx := by simp [Before.lastByte, hcur, hwhole]
    refine hlast.trans ?_
    unfold Slot.crossedByte
    cases cur.kind <;> rfl

/-! ### A check mismatch on a four-wire port (R116) -/

/-- The select deasserted with SENSE deasserted leaves the port IDLE (R117). -/
theorem Part.fourIdle_afterDeselect {t : FourWire} (hsense : t.sense = false) (s : Part) (wire : List BusItem) :
    s.fourIdle { t with lastDeselect := s.now, wire := wire } = t.afterDeselect s.time.count wire := by
  rw [Part.fourIdle, if_neg (by simp [hsense])]
  rfl

/-- The levels of a port with SENSE deasserted. -/
theorem fourLevels_low (levels : BitVec 3) : fourLevels levels false = levels.setWidth 8 := by
  simp [fourLevels, flagBit]

/-- The idle level of the clock by the mode (Table 6-2). -/
theorem clockMode_idleHigh (mode : Nat) : (clockMode mode).idleHigh = decide (2 ≤ mode) := by
  match mode with
  | 0 | 1 | 2 => rfl
  | n + 3 => simp [clockMode]

/-- Settles O48: the wrong check byte of a READ leg ends the attempt, and it is retried. -/
theorem fourWireMismatchRetries : Obligations.FourWireMismatchRetries := by
  intro s q a start c l leg rx got levels b cur hrun hstate hstart hsense hctx hleg hloc hcur hkind hgot hr
  have hlast := (legRuns_four c a.entry).lastByte_check hleg hloc hcur hkind
  have hcourse : s.part.fourCourse q = some { attempt := a, ctx := c, slots := c.fourSlots a.entry } := by
    simp [Part.fourCourse, hstate, hctx]
  generalize hwire : fourTrace a.entry (c.fourSlots a.entry) (crossed b.complete rx []) ++ [.shifted a.entry.fill (some got)] = lead
  refine ⟨lead ++ closingItems a.entry, ?_, ?_⟩
  · have hthree : (lead ++ closingItems a.entry).length - 3 = lead.length := by simp [closingItems]
    rw [hthree, List.drop_left]
    simp [closingItems, clockMode_idleHigh]
  · have hcommand : s.part.fourCheckMismatch q leg rx got levels =
        (s.part.setFour q ((s.part.fourAt q).afterDeselect s.part.time.count (lead ++ closingItems a.entry))).attemptEnded (fourPort q)
          a .checkMismatch s.part.now
          (pointAt (.data leg l.length) c.legs.length (byteOf a.entry.address) got (levels.setWidth 8)) := by
      unfold Part.fourCheckMismatch
      simp only [hcourse, hleg, hloc, hcur]
      rw [if_pos ⟨hkind, by rw [hlast]; exact hgot⟩, Part.endByDeselect, Part.fourIdle_afterDeselect hsense, hsense, fourLevels_low,
        ← hwire, List.append_assoc, List.singleton_append]
    exact next_congr (hcommand.trans
      (Part.attemptEnded_retries (s := s.part.setFour q _) hrun hstart hctx rfl rfl hr (fourPort q) _))

end Sys2Proof.Machine
end

section
/-! RUN: the header check of attach, and the resume from STOPPED with the events that were held (R66 to R68, R167, R171, R174). -/

namespace Sys2Proof.Machine

/-- RUN while the port is ready (R167). -/
theorem exec_run {s : State} (hready : s.part.notReady = false) : exec .run s = .next { s with part := s.part.runCommand } := by
  change Host.Outcome.next { s with part := s.part.hostAccess .run } = _
  rw [Part.hostAccess, hready]
  rfl

/-! ### Attach (R171) -/

theorem Part.runCommand_attaches {s : Part} (h : s.run.state = .halted ∨ s.run.state = .faulted) : s.runCommand = s.beginAttach := by
  rcases h with h | h <;> simp only [Part.runCommand, h]

theorem attachFault_eq (m : Memory) :
    attachFault m = if m.word 0x0000 ≠ 0x00000416#32 then .layout else (readHeader m).fault := rfl

/-- What a failed header check leaves (R148, R171). -/
theorem Part.failAttach_eq (s : Part) (fault : HeaderFault) :
    s.failAttach fault =
      { s with
        run := { s.run with state := .faulted, stopHeld := false, attach := none }
        rep :=
          { s.rep with
            mem := s.rep.mem.setWord 0x0040 (BitVec.ofNat 32 fault.code), queue := []
            cause := s.rep.cause ||| 0x20#8 ||| 0x80#8 } } := by
  unfold Part.failAttach
  simp only [Part.report, Part.tell, Reports.setLatch]
  rfl

/-! ### The order of held events (R68) -/

/-- The place of a timed event among events of one time (R68). -/
def TimedEvent.rank : TimedEvent → Nat
  | .gap => 0
  | .arrival => 1
  | .window => 2
  | .overtake => 3

theorem firstByKey_eq_none {key : TimedEvent → Nat} {es : List TimedEvent} : firstByKey key es = none ↔ es = [] := by
  cases es with
  | nil => simp [firstByKey]
  | cons e es =>
    simp only [firstByKey, reduceCtorEq, iff_false]
    split
    · simp
    · split <;> simp

/-- The first of several events in the order of their ranks is the earliest one, and of those the first by rank. -/
theorem firstByKey_first {key : TimedEvent → Nat} {es : List TimedEvent} (hes : es.Pairwise (fun e f => e.rank < f.rank)) :
    ∀ {e : TimedEvent}, firstByKey key es = some e →
      e ∈ es ∧ ∀ f ∈ es, key e < key f ∨ (key e = key f ∧ e.rank ≤ f.rank) := by
  induction es with
  | nil => intro e h; cases h
  | cons a es ih =>
    obtain ⟨hfirst, hrest⟩ := List.pairwise_cons.mp hes
    intro e h
    rw [firstByKey] at h
    cases hb : firstByKey key es with
    | none =>
      rw [hb] at h
      obtain rfl := Option.some.inj h
      exact ⟨List.mem_cons_self, fun f hf => by
        obtain rfl : f = a := by simpa [firstByKey_eq_none.mp hb] using hf
        exact Or.inr ⟨rfl, le_refl _⟩⟩
    | some b =>
      rw [hb] at h
      obtain ⟨hmem, hbest⟩ := ih hrest hb
      have hrank := hfirst b hmem
      by_cases hab : key a ≤ key b
      · obtain rfl : a = e := by simpa [hab] using h
        refine ⟨List.mem_cons_self, fun f hf => ?_⟩
        rcases List.mem_cons.mp hf with rfl | hf'
        · exact Or.inr ⟨rfl, le_refl _⟩
        · have := hbest f hf'
          omega
      · obtain rfl : b = e := by simpa [hab] using h
        refine ⟨List.mem_cons_of_mem _ hmem, fun f hf => ?_⟩
        rcases List.mem_cons.mp hf with rfl | hf'
        · exact Or.inl (by omega)
        · exact hbest f hf'

/-- The timed events of a card that are due, in the order of their ranks. -/
def Part.dueEvents (s : Part) (c : Context) : List TimedEvent :=
  [TimedEvent.gap, .arrival, .window, .overtake].filter (fun e => Fresh.all.allows e && s.eventDue c e)

theorem Part.dueEvents_pairwise (s : Part) (c : Context) : (s.dueEvents c).Pairwise (fun e f => e.rank < f.rank) :=
  List.Pairwise.filter _ (by decide)

theorem Part.mem_dueEvents {s : Part} {c : Context} {e : TimedEvent} :
    e ∈ s.dueEvents c ↔ ∃ t, c.armedAt e = some t ∧ Time.atOrAfter s.time.count t = true := by
  have hall : e ∈ [TimedEvent.gap, .arrival, .window, .overtake] := by cases e <;> decide
  have hallowed : Fresh.all.allows e = true := by cases e <;> rfl
  rw [Part.dueEvents, List.mem_filter, hallowed, Bool.true_and, Part.eventDue]
  cases harmed : c.armedAt e with
  | none => simp [Part.expired]
  | some t =>
    simp only [hall, true_and, Option.some.injEq, exists_eq_left']
    rfl

/-- In the pass of a resume the events are measured from the entry into STOPPED. -/
theorem Part.nextEvent_resume {s : Part} (hs : s.takesEvents = true) (c : Context) :
    s.nextEvent { fromAcceptance := false, resume := true } c .all =
      firstByKey (c.eventKey s.run.stoppedAt) (s.dueEvents c) := by
  unfold Part.nextEvent
  rw [hs]
  rfl

theorem Context.eventKey_of_armed {c : Context} {e : TimedEvent} {t : Time} (h : c.armedAt e = some t) (origin : Time) :
    c.eventKey origin e = (t - origin).toNat := by
  rw [Context.eventKey, h]
  rfl

/-- The event a resume takes next is the first one due, by its time since STOPPED and then by its rank (R68). -/
theorem Part.nextEvent_resume_spec {s : Part} (hs : s.takesEvents = true) (c : Context) :
    (s.nextEvent { fromAcceptance := false, resume := true } c .all = none ↔
        ∀ e t, ¬(c.armedAt e = some t ∧ Time.atOrAfter s.time.count t = true)) ∧
      ∀ e, s.nextEvent { fromAcceptance := false, resume := true } c .all = some e →
        ∃ t, (c.armedAt e = some t ∧ Time.atOrAfter s.time.count t = true) ∧
          ∀ f u, (c.armedAt f = some u ∧ Time.atOrAfter s.time.count u = true) →
            (t - s.run.stoppedAt).toNat < (u - s.run.stoppedAt).toNat ∨
              ((t - s.run.stoppedAt).toNat = (u - s.run.stoppedAt).toNat ∧ e.rank ≤ f.rank) := by
  rw [Part.nextEvent_resume hs]
  refine ⟨?_, fun e he => ?_⟩
  · rw [firstByKey_eq_none, List.eq_nil_iff_forall_not_mem]
    simp only [Part.mem_dueEvents, not_exists]
  · obtain ⟨hmem, hfirst⟩ := firstByKey_first (s.dueEvents_pairwise c) he
    obtain ⟨t, ht, hdue⟩ := Part.mem_dueEvents.mp hmem
    refine ⟨t, ⟨ht, hdue⟩, fun f u hf => ?_⟩
    have hkey := hfirst f (Part.mem_dueEvents.mpr ⟨u, hf⟩)
    rwa [Context.eventKey_of_armed ht, Context.eventKey_of_armed hf.1] at hkey

/-! ### The resume (R174) -/

/-- The part at the beginning of a resume: RUNNING, and the Attention Unit told (R174). -/
def Part.resumed (s : Part) : Part := ({ s with run := { s.run with state := .running } } : Part).tell .runState

/-- The pass over one card in a resume (R68). -/
def Part.passCard (s : Part) (n : CardIx) : Part := Part.finish { fromAcceptance := false, resume := true } n (s, .settle .all)

theorem Part.runCommand_resumes {s : Part} (h : s.run.state = .stopped) :
    s.runCommand = (allCards.foldl Part.passCard s.resumed).beginSweep := by
  simp only [Part.runCommand, h]
  rfl

/-- A latch that is set stays set through the rules for cards. -/
theorem latch_closed (l : Latch) : RepClosed (fun r => r.latch l = true) where
  word _ _ _ h := h
  latch r l' h := by
    simp only [Reports.latch, Reports.setLatch, BitVec.getLsbD_or] at *
    simp [h]
  done _ _ h := h
  request r state level f h := by
    rcases r.request_cases state level f with hr | ⟨hr, _⟩ | hr
    · rw [hr]; exact h
    · rw [hr]; exact h
    · rw [hr, Reports.loseRecord_eq]
      simp only [Reports.latch, BitVec.getLsbD_or] at *
      simp [h]
  told r threshold holdoff now h := by
    unfold Reports.sampleTold
    split
    · exact h
    · simp only
      split
      · simp only [Reports.latch, Reports.setLatch, BitVec.getLsbD_or] at *
        simp [h]
      · exact h

/-- The pass over the cards changes reports and contexts alone, and no latch is cleared. -/
theorem passCards_spec (ns : List CardIx) (s : Part) :
    OnlyCards s (ns.foldl Part.passCard s) ∧ (s.rep.latch .runState = true → (ns.foldl Part.passCard s).rep.latch .runState = true) := by
  have hpass : ∀ {R : Part → Part → Prop}, AllClosed Always R → R s (ns.foldl Part.passCard s) := fun hR =>
    (foldl_carried hR Part.passCard (fun t n ht => ((Carried.closed hR n).finish always_debtLike _ (t, _) (ht n)).1) ns s
      (fun _ _ _ => trivial)).1
  exact ⟨hpass onlyCards_closed, hpass (keepsRep_closed (latch_closed .runState))⟩

theorem TwoWire.noteLimit_of_none {t : TwoWire} (h : t.recovery = none) (now : Time) (limit : Nat) : t.noteLimit now limit = t := by
  unfold TwoWire.recovery at h
  unfold TwoWire.noteLimit
  split
  · rename_i r hstate
    rw [hstate] at h
    cases h
  all_goals rfl

/-- A card without a context has nothing to take in a resume. -/
theorem passCards_free {ns : List CardIx} {s : Part} (h : ∀ m ∈ ns, s.ctx m = none) : ns.foldl Part.passCard s = s := by
  induction ns with
  | nil => rfl
  | cons m ns ih =>
    obtain ⟨hm, hrest⟩ := List.forall_mem_cons.mp h
    rw [List.foldl_cons, Part.passCard, Part.finish_free hm, ih hrest]

/-- With one context alone a resume takes that card's events. -/
theorem passCards_one {s : Part} {n : CardIx} (h : ∀ m, m ≠ n → s.ctx m = none) :
    allCards.foldl Part.passCard s = s.passCard n := by
  obtain ⟨before, after, hcards⟩ := List.append_of_mem (List.mem_finRange n)
  have hnodup : (before ++ n :: after).Nodup := hcards ▸ List.nodup_finRange Config.cards
  have hsplit := List.nodup_append.mp hnodup
  have hbefore : ∀ m ∈ before, m ≠ n := fun m hm => hsplit.2.2 m hm n List.mem_cons_self
  have hafter : ∀ m ∈ after, m ≠ n := fun m hm he => (List.nodup_cons.mp hsplit.2.1).1 (he ▸ hm)
  have hpass : OnlyCard n s (s.passCard n) := finish_onlyCard _ n (s, _)
  have hall : allCards = before ++ n :: after := hcards
  rw [hall, List.foldl_append, List.foldl_cons, passCards_free (fun m hm => h m (hbefore m hm)),
    passCards_free (fun m hm => (hpass.ctx m (hafter m hm)).trans (h m (hafter m hm)))]

/-- In a resume an event that puts a card on a ready list is its only one, if nothing further is due there. -/
theorem Part.passCard_placed {s : Part} {n : CardIx} {c c' : Context} {ev : TimedEvent} {f : Fresh} {p : PortIx}
    (hctx : s.ctx n = some c) (hnext : s.nextEvent { fromAcceptance := false, resume := true } c .all = some ev)
    (htake : s.takeEvent { fromAcceptance := false, resume := true } n c .all ev = (s.setCtx n (some c'), .settle f))
    (hphase : c'.phase = .waiting p) (hwin : ∀ t, c'.windowExpiry = some t → s.dueBy t = false)
    (harr : c'.armed = true → s.dueBy c'.nextArrival = false) : s.passCard n = s.setCtx n (some c') := by
  have hrests : (s.setCtx n (some c')).workOnce { fromAcceptance := false, resume := true } n (.settle f) = none := by
    rw [Part.workOnce_settle (Part.setCtx_ctx_self _ _ _), Part.nextEvent_waiting_none (s := s.setCtx n (some c')) hphase hwin harr]
    rfl
  refine Part.finish_one (x := (s.setCtx n (some c'), .settle f)) ?_ hrests
  rw [Part.workOnce_settle hctx, hnext, Option.map_some, htake]

/-- A retry gap that has run out while the part was STOPPED returns the card to a ready list, where nothing further is due. -/
theorem Part.passCard_gap {s : Part} {n : CardIx} {c : Context} {r : Resolution} {e : Time} (hs : s.takesEvents = true)
    (hctx : s.ctx n = some c) (hphase : c.phase = .retryWait) (hgap : c.gapExpiry = some e)
    (hdue : Time.atOrAfter s.time.count e = true) (harr : c.armed = true → Time.atOrAfter s.time.count c.nextArrival = false)
    (hr : s.resolve c.device = .ok r) :
    s.passCard n = s.setCtx n (some (({ c with gapExpiry := none, fromRetry := true } : Context).placed r none)) := by
  have hnext : s.nextEvent { fromAcceptance := false, resume := true } c .all = some .gap := by
    have hgapDue : s.eventDue c .gap = true := Part.eventDue_of (by simp [Context.armedAt, hphase, hgap]) hdue
    have hother : ∀ ev, ev ≠ .gap → s.eventDue c ev = false := fun ev hev => by
      cases ev with
      | gap => exact absurd rfl hev
      | arrival | window => simp [Part.eventDue, Context.armedAt, Context.waitsUnstarted, hphase, Part.expired]
      | overtake =>
        unfold Part.eventDue Context.armedAt
        simp only
        split
        · rename_i h
          exact harr h.2.1
        · rfl
    have hlist : s.dueEvents c = [.gap] := by
      simp [Part.dueEvents, Fresh.allows, Fresh.all, hgapDue, hother]
    rw [Part.nextEvent_resume hs, hlist]
    rfl
  have htake : s.takeEvent { fromAcceptance := false, resume := true } n c .all .gap =
      (s.setCtx n (some (({ c with gapExpiry := none, fromRetry := true } : Context).placed r none)), .settle .all) :=
    Part.placeInstance_ok (c := { c with gapExpiry := none, fromRetry := true }) hr n none .all
  exact Part.passCard_placed hctx hnext htake (p := r.port) rfl (fun t h => nomatch h) harr

/-- A due arrival that was held puts the card on a ready list, where nothing further is due. -/
theorem Part.passCard_arrival {s : Part} {n : CardIx} {c : Context} {r : Resolution} (hs : s.takesEvents = true)
    (hctx : s.ctx n = some c) (hphase : c.phase = .sleeping) (harmed : c.armed = true) (hend : c.pendingEnd = .none)
    (hdue : Time.atOrAfter s.time.count c.nextArrival = true) (hwin : ∀ t, c.dueWindow = some t → s.dueBy t = false)
    (hagain : c.advanceArrival.armed = true → s.dueBy c.advanceArrival.nextArrival = false) (hr : s.resolve c.device = .ok r) :
    s.passCard n = s.setCtx n (some (c.advanceArrival.placed r c.dueWindow)) := by
  have hnext := (Part.nextEvent_sleeping (m := { fromAcceptance := false, resume := true }) (f := .all) hs hphase harmed hend rfl).trans
    (if_pos hdue)
  have htake : s.takeEvent { fromAcceptance := false, resume := true } n c .all .arrival =
      (s.setCtx n (some (c.advanceArrival.placed r c.dueWindow)), .settle .all) := Part.takeArrival_placed rfl hr n .all
  exact Part.passCard_placed hctx hnext htake (p := r.port) rfl hwin hagain

/-- RUN in STOPPED with one context alone leaves that card as the pass over its events does. -/
theorem exec_run_one {s : State} {n : CardIx} {c : Context} (hready : s.part.notReady = false) (hstate : s.part.run.state = .stopped)
    (hone : ∀ m, m ≠ n → s.part.ctx m = none) (hpass : s.part.resumed.passCard n = s.part.resumed.setCtx n (some c)) :
    ∃ t : State, exec .run s = .next t ∧ t.part.ctx n = some c := by
  have hfold : allCards.foldl Part.passCard s.part.resumed = s.part.resumed.setCtx n (some c) :=
    (passCards_one (s := s.part.resumed) hone).trans hpass
  refine ⟨_, exec_run hready, ?_⟩
  rw [Part.runCommand_resumes hstate, hfold, Part.beginSweep_eq]
  exact Part.setCtx_ctx_self _ _ _

/-- Settles O15: the header check of attach, the resume with the order of its events, and RUN without effect. -/
theorem runByRunState : Obligations.RunByRunState := by
  refine ⟨?_, ⟨fun s hready hstate => ?_, fun s hready hstate => ?_⟩, ?_, ?_⟩
  · intro s hready hstate m h
    rw [exec_run hready, Part.runCommand_attaches hstate, Part.beginAttach]
    refine ⟨fun hlayout hfault => ?_, fun fault hcode hne => ?_⟩
    · have hnone : attachFault s.part.rep.mem = .none := by rw [attachFault_eq, if_neg (by simpa using hlayout)]; exact hfault
      simp only [hnone, if_true]
      rfl
    · have hsome : attachFault s.part.rep.mem = fault := (attachFault_eq _).trans hcode.symm
      simp only [hsome, if_neg hne, Part.failAttach_eq]
      rfl
  · rw [exec_run hready]
    rcases hstate with h | h | h <;> simp only [Part.runCommand, h]
  · obtain ⟨honly, hlatch⟩ := passCards_spec allCards s.part.resumed
    generalize ht : allCards.foldl Part.passCard s.part.resumed = t at honly hlatch
    refine ⟨_, exec_run hready, ?_⟩
    simp only [Part.runCommand_resumes hstate, ht, Part.beginSweep_eq]
    refine ⟨congrArg RunControl.state honly.run, ?_, trivial, trivial, honly.four, fun q hq => ?_, honly.dev, honly.time⟩
    · have hset := hlatch (Reports.latch_setLatch_self _ .runState)
      split
      · exact hset
      · exact (latch_closed .runState).latch _ .header hset
    · have hat : t.twoAt q = s.part.twoAt q := by unfold Part.twoAt; rw [honly.two]; rfl
      have hkept := TwoWire.noteLimit_of_none (t := t.twoAt q) (by rw [hat]; exact hq) t.now t.withHeaderRead.holdLimitUs
      simp only [Part.twoAt, Fin.getElem_fin, Vector.getElem_map] at hkept hat ⊢
      exact hkept.trans hat
  · intro s c hs pass due after rank
    have hspec := Part.nextEvent_resume_spec hs c
    refine ⟨hspec.1, fun e he => ?_⟩
    obtain ⟨t, ht, hfirst⟩ := hspec.2 e he
    exact ⟨t, ht, hfirst⟩
  · intro s n c r hready hstate hctx hone hr now
    refine ⟨fun e hphase hgap hdue harr => ?_, ?_⟩
    · exact exec_run_one hready hstate hone
        (Part.passCard_gap (s := s.part.resumed) (c := c) (r := r) rfl hctx hphase hgap hdue harr hr)
    · intro hphase harmed hend hdue window again hwin hagain
      exact exec_run_one hready hstate hone
        (Part.passCard_arrival (s := s.part.resumed) (c := c) (r := r) rfl hctx hphase harmed hend hdue hwin hagain hr)

end Sys2Proof.Machine
end

section
/-! What the rules for one card leave of the reports: they write words of the card's own progress half and of sample slots, set its done
bit, ask for records and tell of samples.  A condition on the reports that these keep holds through all of the card's work. -/

namespace Sys2Proof.Machine

/-- The words the rules for card `n` write themselves: those of its progress half, and of the sample slots (R135, R136). -/
def OwnWord (n : CardIx) (a : Nat) : Prop := (Addr.progress n ≤ a ∧ a ≤ Addr.progress n + 28) ∨ 0x4000 ≤ a

/-- A condition on the reports that the rules for card `n` keep. -/
structure OwnClosed (n : CardIx) (P : Reports → Prop) : Prop where
  word : ∀ {r : Reports} {a : Nat} (w : Word), OwnWord n a → P r → P { r with mem := r.mem.setWord a w }
  setDone : ∀ {r : Reports}, P r → P (r.setDone n)
  request : ∀ {r : Reports} (state : RunState) (level : LogLevel) (f : FaultRecord), P r → P (r.request state level f)
  told : ∀ {r : Reports} (threshold holdoff : Nat) (now : Time), P r → P (r.sampleTold threshold holdoff now)

/-- A conditional keeps what both of its branches keep. -/
theorem ite_rep {P : Reports → Prop} {p : Prop} [Decidable p] {x y : Part × Work} (hx : P x.1.rep) (hy : P y.1.rep) :
    P (if p then x else y).1.rep := by
  split
  · exact hx
  · exact hy

namespace OwnClosed

variable {n : CardIx} {P : Reports → Prop} (hP : OwnClosed n P)
include hP

/-! ### The Result Unit -/

theorem words {a : Nat} (ha : 0x4000 ≤ a) (ws : List Word) : ∀ {r : Reports}, P r → P { r with mem := r.mem.setWords a ws } := by
  induction ws generalizing a with
  | nil => exact fun h => h
  | cons w ws ih =>
    intro r h
    exact ih (a := a + 4) (by omega) (r := { r with mem := r.mem.setWord a w }) (hP.word w (Or.inr ha) h)

theorem slot {k : Nat} (ws : List Word) {r : Reports} (h : P r) : P { r with mem := r.mem.setClosed (Addr.slot k) ws } := by
  have hslot : 0x4000 ≤ Addr.slot k := by simp only [Addr.slot]; omega
  have hlast := hP.word (r := r) (a := Addr.slot k + 4 * (ws.length - 1)) (ws.getLastD 0#32) (Or.inr (by omega)) h
  exact hP.word _ (Or.inr hslot) (hP.words (a := Addr.slot k + 4) (by omega) ws.tail.dropLast hlast)

theorem progressWord {s : Part} (h : P s.rep) {o : Nat} (ho : o ≤ 28) (w : Word) : P (s.writeProgressWord n o w).rep :=
  hP.word w (Or.inl ⟨by omega, by omega⟩) h

theorem live {s : Part} (h : P s.rep) (c : Context) : P (s.writeLive n c).rep := hP.word _ (Or.inl ⟨by omega, by omega⟩) h

theorem endCard {s : Part} (h : P s.rep) (c : Context) (state : ProgressState) (result : ResultCode) :
    P (s.endCard n c state result).rep :=
  hP.setDone (hP.word (c.wordAs state result) (Or.inl ⟨by omega, by omega⟩) h)

theorem sampleTold {s : Part} (h : P s.rep) (c : Context) : P (s.sampleTold c).rep := by
  unfold Part.sampleTold
  split
  · split
    · exact hP.told _ _ _ h
    · exact h
  · exact h

theorem writeSample {s : Part} (h : P s.rep) (c : Context) (la : LastAttempt) (code : ResultCode) (data : List Byte) (o : Bool) :
    P (s.writeSample n c la code data o).part.rep := by
  have hslot : P (s.report (fun r =>
      { r with mem := r.mem.setClosed (Addr.slot (c.bankFirst + c.position)) (c.sample n la code data).words })).rep := hP.slot _ h
  exact hP.sampleTold (hP.progressWord hslot (by omega) _) _

theorem resultSample {s : Part} (h : P s.rep) (c : Context) (code : ResultCode) (data : List Byte) :
    P (s.resultSample n c code data).part.rep := by
  unfold Part.resultSample
  split
  · exact h
  · rename_i la _
    split
    · exact h
    · simp only
      split
      · exact hP.request _ _ _ h
      · split
        · exact hP.progressWord h (by omega) _
        · exact hP.writeSample h c la code data _

theorem writeCounters {s : Part} (h : P s.rep) (c : Context) (failed : Bool) : P (s.writeCounters n c failed).rep := by
  have hlive : P (if c.last.isSome then s.writeLive n c else s).rep := by
    split
    · exact hP.live h c
    · exact h
  have hrun := hP.progressWord hlive (o := 8) (by omega) c.run
  have hfailed : P (if failed then
      ((if c.last.isSome then s.writeLive n c else s).writeProgressWord n 8 c.run).writeProgressWord n 16 c.failed else
      (if c.last.isSome then s.writeLive n c else s).writeProgressWord n 8 c.run).rep := by
    split
    · exact hP.progressWord hrun (by omega) _
    · exact hrun
  unfold Part.writeCounters
  simp only
  split
  · exact hfailed
  · exact hP.progressWord (hP.progressWord (hP.progressWord hfailed (by omega) _) (by omega) _) (by omega) _

theorem failedWith {s : Part} (h : P s.rep) (c : Context) (code : ResultCode) : P (s.failedWith n c code).rep :=
  hP.endCard (hP.writeCounters h _ true) _ _ _

/-! ### Ends and resolutions -/

theorem afterEnd {s : Part} (h : P s.rep) (c : Context) (code : ResultCode) (invalid : Bool) (f : Fresh) :
    P (s.afterEnd n c code invalid f).1.rep := by
  have hend := hP.endCard h c
  unfold Part.afterEnd
  split
  · exact hend _ _
  · refine ite_rep (hend _ _) ?_
    split
    · exact ite_rep (hend _ _) (hend _ _)
    · exact ite_rep (hend _ _) (ite_rep (hend _ _) (ite_rep (hP.live h _) h))

theorem endInstance {s : Part} (h : P s.rep) (c : Context) (code : ResultCode) (data : List Byte) (f : Fresh) :
    P (s.endInstance n c code data f).1.rep :=
  hP.afterEnd (hP.writeCounters (hP.resultSample h c code data) _ _) _ _ _ _

theorem placeInstance {s : Part} (h : P s.rep) (c : Context) (window : Option Time) (f : Fresh) :
    P (s.placeInstance n c window f).1.rep := by
  unfold Part.placeInstance
  split
  · exact h
  · exact hP.endInstance h _ _ _ _

/-! ### Timed events -/

theorem takeOvertake {s : Part} (h : P s.rep) (m : PassMode) (c : Context) (f : Fresh) : P (s.takeOvertake m n c f).1.rep := by
  have hrequest : P (s.request (debtLimitRecord s.now n c)).rep := hP.request _ _ _ h
  have hmissed : P (s.writeMissed n c.missOne).rep := hP.progressWord h (by omega) _
  have hlimit : P (s.overtakeAtLimit n c f).1.rep := by
    unfold Part.overtakeAtLimit
    simp only
    split
    · exact hrequest
    · exact hP.endCard hrequest c _ _
    · exact hP.endCard hrequest c _ _
    · exact hP.endCard hrequest c _ _
  unfold Part.takeOvertake
  exact ite_rep (ite_rep hlimit (hP.live h _)) (ite_rep (hP.placeInstance hmissed _ _ _) hmissed)

theorem takeWindow {s : Part} (h : P s.rep) (c : Context) (f : Fresh) : P (s.takeWindow n c f).1.rep := by
  have hmissed : P (s.writeMissed n c.missOne).rep := hP.progressWord h (by omega) _
  have hend := hP.endCard hmissed c.missOne
  unfold Part.takeWindow
  refine ite_rep h ?_
  cases c.kind with
  | once => exact hend _ _
  | every => exact ite_rep (hend _ _) hmissed

theorem takeEvent {s : Part} (h : P s.rep) (m : PassMode) (c : Context) (f : Fresh) (e : TimedEvent) :
    P (s.takeEvent m n c f e).1.rep := by
  cases e with
  | gap => exact hP.placeInstance h _ _ _
  | arrival => exact hP.placeInstance h _ _ _
  | window => exact hP.takeWindow h c f
  | overtake => exact hP.takeOvertake h m c f

/-! ### All the work of a card -/

theorem workOnce {s : Part} {m : PassMode} {w : Work} {x : Part × Work} (h : P s.rep) (hx : s.workOnce m n w = some x) : P x.1.rep := by
  unfold Part.workOnce at hx
  split at hx
  · cases hx
  · split at hx
    · cases hx; exact hP.placeInstance h _ _ _
    · split at hx
      · cases hx
      · cases hx; exact hP.takeEvent h m _ _ _

theorem workFor (fuel : Nat) (m : PassMode) {s : Part} (h : P s.rep) (w : Work) : P (workFor fuel m n (s, w)).rep := by
  induction fuel generalizing s w with
  | zero => exact h
  | succ fuel ih =>
    unfold Machine.workFor
    split
    · exact h
    · rename_i x hx
      exact ih (hP.workOnce h hx) x.2

theorem reresolve {s : Part} (h : P s.rep) : P (s.reresolve n).rep := by
  unfold Part.reresolve
  split
  · exact h
  · split
    · exact h
    · exact hP.workFor _ _ (hP.endInstance h _ _ _ _) _

end OwnClosed

/-! ### Re-resolutions of several cards -/

/-- A condition that the rules of each of the cards keep holds after their re-resolutions. -/
theorem foldl_reresolve_rep {P : Reports → Prop} {ns : List CardIx} (hP : ∀ n ∈ ns, OwnClosed n P) :
    ∀ {s : Part}, P s.rep → P (ns.foldl Part.reresolve s).rep := by
  induction ns with
  | nil => exact fun h => h
  | cons n ns ih =>
    obtain ⟨hn, hrest⟩ := List.forall_mem_cons.mp hP
    exact fun h => ih hrest (hn.reresolve h)

/-- The re-resolutions of other cards leave a card's context. -/
theorem foldl_reresolve_ctx {ns : List CardIx} {m : CardIx} (hm : m ∉ ns) :
    ∀ {s : Part}, (ns.foldl Part.reresolve s).ctx m = s.ctx m := by
  induction ns with
  | nil => exact rfl
  | cons n ns ih =>
    obtain ⟨hne, hrest⟩ := not_or.mp (fun h => hm (List.mem_cons.mpr h))
    intro s
    exact (ih hrest).trans ((reresolve_onlyCard s n).ctx m hne)

theorem foldl_reresolve_onlyCards (ns : List CardIx) (s : Part) : OnlyCards s (ns.foldl Part.reresolve s) :=
  (foldl_carried onlyCards_closed Part.reresolve
    (fun t n ht => ((Carried.closed onlyCards_closed n).reresolve always_debtLike t (ht n)).1) ns s (fun _ _ _ => trivial)).1

/-! ### The words that no card's rules write -/

/-- The device table, the status words and the request area's beginning stand as in `m`. -/
def KeepsTables (m : Memory) (r : Reports) : Prop := r.mem.wf = true ∧ ∀ a : Nat, 0x0100 ≤ a → a < 0x0660 → r.mem.get a = m.get a

theorem Reports.setDone_mem (r : Reports) (n : CardIx) :
    (r.setDone n).mem = r.mem.setWord (Addr.doneMap + 4 * (n.val / 32))
      ((r.done ||| (1#96 <<< n.val)).extractLsb' (32 * (n.val / 32)) 32) := rfl

theorem OwnWord.outside {n : CardIx} {a : Nat} (h : OwnWord n a) {b : Nat} (hb : b < 0x0660) : b < a := by
  have hhalf := Addr.progress_eq n
  unfold OwnWord at h
  omega

theorem keepsTables_closed (m : Memory) (n : CardIx) : OwnClosed n (KeepsTables m) where
  word w hown h := ⟨Memory.wf_setWord h.1 _ w, fun b h1 h2 =>
    (Memory.get_setWord_outside h.1 w (Or.inl (hown.outside h2))).trans (h.2 b h1 h2)⟩
  setDone {r} h := by
    have hword := Addr.doneWord_le n
    refine ⟨Memory.wf_setWord h.1 _ _, fun b h1 h2 => ?_⟩
    rw [Reports.setDone_mem]
    exact (Memory.get_setWord_outside h.1 _ (by omega)).trans (h.2 b h1 h2)
  request state level f h := by
    obtain ⟨hwf, hkept⟩ := Reports.request_mem h.1 state level f
    exact ⟨hwf, fun b h1 h2 => (hkept b (by omega)).trans (h.2 b h1 h2)⟩
  told {r} threshold holdoff now h := by
    have hmem := (r.sampleTold_frame threshold holdoff now).1
    unfold KeepsTables
    rw [hmem]
    exact h

/-! ### The end that another card shows -/

/-- The reports show that card `m` has ended (R137, R138). -/
structure Reports.Ended (m : CardIx) (g : Byte) (state : ProgressState) (result : ResultCode) (r : Reports) : Prop where
  wf : r.mem.wf = true
  generation : r.mem.get (Addr.progress m) = g
  word : r.mem.get (Addr.progress m + 1) = byteOf (state.code + 8 * result.code)
  done : r.done.getLsbD m.val = true
  map : r.mem.word (Addr.doneMap + 4 * (m.val / 32)) = r.done.extractLsb' (32 * (m.val / 32)) 32
  latch : r.latch .done = true

theorem Part.cardEnded_iff {s : Part} (hm : s.rep.mem.wf = true) {n : CardIx} {g : Byte} {state : ProgressState} {result : ResultCode} :
    s.cardEnded n g state result ↔ s.ctx n = none ∧ s.rep.Ended n g state result :=
  ⟨fun ⟨hctx, hgen, hword, hdone, hmap, hlatch⟩ => ⟨hctx, hm, hgen, hword, hdone, hmap, hlatch⟩,
    fun ⟨hctx, h⟩ => ⟨hctx, h.generation, h.word, h.done, h.map, h.latch⟩⟩

/-- A bit set for a card of another word of the done map leaves this one's word. -/
theorem done_extract_other (done : BitVec 96) {n m : CardIx} (h : n.val / 32 ≠ m.val / 32) :
    (done ||| (1#96 <<< n.val)).extractLsb' (32 * (m.val / 32)) 32 = done.extractLsb' (32 * (m.val / 32)) 32 := by
  apply BitVec.eq_of_getLsbD_eq
  intro i hi
  have hbit : (1#96 <<< n.val).getLsbD (32 * (m.val / 32) + i) = false := by
    simp only [BitVec.getLsbD_shiftLeft, BitVec.getLsbD_one]
    have : 32 * (m.val / 32) + i ≠ n.val := by omega
    by_cases hlt : 32 * (m.val / 32) + i < n.val
    · simp [hlt]
    · have hpos : 32 * (m.val / 32) + i - n.val ≠ 0 := by omega
      simp [hpos]
  simp [BitVec.getLsbD_extractLsb', BitVec.getLsbD_or, hbit]

/-- The rules of another card leave the end a card shows. -/
theorem ended_closed {n m : CardIx} (hnm : n ≠ m) (g : Byte) (state : ProgressState) (result : ResultCode) :
    OwnClosed n (Reports.Ended m g state result) where
  word {r a} w hown h := by
    have hn := Addr.progress_eq n
    have hm := Addr.progress_eq m
    have hlt : m.val < 96 := m.isLt
    have hval : n.val ≠ m.val := fun e => hnm (Fin.ext e)
    have hle := Addr.doneWord_le m
    have hget : ∀ b : Nat, (Addr.progress m ≤ b ∧ b < Addr.progress m + 32) ∨ b < 0x0660 → (r.mem.setWord a w).get b = r.mem.get b :=
      fun b hb => Memory.get_setWord_outside h.wf w (by unfold OwnWord at hown; omega)
    exact {
      wf := Memory.wf_setWord h.wf _ _
      generation := (hget _ (by omega)).trans h.generation
      word := (hget _ (by omega)).trans h.word
      done := h.done
      map := (Memory.word_congr (fun b h1 h2 => hget b (by omega))).trans h.map
      latch := h.latch }
  setDone {r} h := by
    have hm := Addr.progress_eq m
    have hn := Addr.doneWord_le n
    have hget : ∀ b : Nat, ¬(Addr.doneMap + 4 * (n.val / 32) ≤ b ∧ b < Addr.doneMap + 4 * (n.val / 32) + 4) →
        (r.setDone n).mem.get b = r.mem.get b := fun b hb => by
      rw [Reports.setDone_mem]
      exact Memory.get_setWord_outside h.wf _ (by omega)
    exact {
      wf := Memory.wf_setWord h.wf _ _
      generation := (hget _ (by omega)).trans h.generation
      word := (hget _ (by omega)).trans h.word
      done := by
        change (r.done ||| (1#96 <<< n.val)).getLsbD m.val = true
        rw [BitVec.getLsbD_or, h.done, Bool.true_or]
      map := by
        change (r.setDone n).mem.word _ = (r.done ||| (1#96 <<< n.val)).extractLsb' _ 32
        by_cases hword : n.val / 32 = m.val / 32
        · rw [← hword, Reports.setDone_mem]
          exact Memory.word_setWord h.wf _ _
        · rw [done_extract_other r.done hword]
          exact (Memory.word_congr (fun b h1 h2 => hget b (by omega))).trans h.map
      latch := (latch_closed .done).latch { r with done := _ } .done h.latch }
  request {r} s l f h := by
    have hm := Addr.progress_eq m
    obtain ⟨hwf, hkept⟩ := Reports.request_mem h.wf s l f
    have hdone : (r.request s l f).done = r.done := by
      rcases r.request_cases s l f with hr | ⟨hr, _⟩ | hr <;> rw [hr]
      rfl
    exact {
      wf := hwf
      generation := (hkept _ (by omega)).trans h.generation
      word := (hkept _ (by omega)).trans h.word
      done := by rw [hdone]; exact h.done
      map := by
        rw [hdone]
        exact (Memory.word_congr (fun b h1 h2 => hkept b (by simp only [Addr.doneMap] at h1; omega))).trans h.map
      latch := (latch_closed .done).request r s l f h.latch }
  told {r} threshold holdoff now h := by
    obtain ⟨hmem, _, hdone, _, _⟩ := r.sampleTold_frame threshold holdoff now
    exact {
      wf := by rw [hmem]; exact h.wf
      generation := by rw [hmem]; exact h.generation
      word := by rw [hmem]; exact h.word
      done := by rw [hdone]; exact h.done
      map := by rw [hmem, hdone]; exact h.map
      latch := (latch_closed .done).told r threshold holdoff now h.latch }

end Sys2Proof.Machine
end

section
/-! A device that is fenced by a failure: its record, its status word, automatic substitution, and the re-resolution of the cards that
wait for it (R74, R77 to R79, R86). -/

namespace Sys2Proof.Machine

/-! ### Records that are asked for with room in the queue (R141) -/

/-- A record that no log level discards: that of no attempt error, and that of an attempt error that ends its card's work (R142). -/
def FaultRecord.alwaysKept (f : FaultRecord) : Prop := f.kind.attemptError = false ∨ f.disposition = .ending

theorem LogLevel.keeps_of_alwaysKept {f : FaultRecord} (h : f.alwaysKept) (level : LogLevel) : level.keeps f = true := by
  cases level with
  | full => rfl
  | quiet => rcases h with h | h <;> simp [LogLevel.keeps, h]

/-- Such a record is queued in RUNNING where there is room, and nothing else changes. -/
theorem Part.request_room {s : Part} {f : FaultRecord} (hrun : s.run.state = .running) (hf : f.alwaysKept)
    (hroom : s.rep.queue.length < 16) : s.request f = { s with rep := { s.rep with queue := s.rep.queue ++ [f] } } := by
  have hrep := (s.rep.request_kept (state := s.run.state) (by rw [hrun]; rfl) (LogLevel.keeps_of_alwaysKept hf s.logLevel)).trans
    (if_neg (Nat.not_le.mpr hroom))
  exact congrArg (fun r => { s with rep := r }) hrep

/-! ### What automatic substitution decides (R78) -/

section
variable {s : Part} {d : DevIx}

theorem Part.substDecision_nothing (hnone : s.dev.standbyOf d = none) (h : (readEntry s.rep.mem d).standby = 0xFF) :
    s.substDecision d = .nothing := by
  have hix : devIx? (readEntry s.rep.mem d).standby = none := devIx?_of_not_lt (by omega)
  simp [Part.substDecision, hnone, hix]

/-- A usable standby is entered where the map has room, and is in vain where it is full. -/
theorem Part.substDecision_standby {x : DevIx} (hnone : s.dev.standbyOf d = none) (hpresent : (readEntry s.rep.mem d).present = true)
    (h : (readEntry s.rep.mem d).standby = x.val) (hne : x ≠ d) (husable : s.usableStandby x = true) :
    s.substDecision d = if s.dev.subst.length < 8 then .enter x else .full x := by
  have hix : devIx? (readEntry s.rep.mem d).standby = some x := by rw [h]; exact devIx?_of_lt x.isLt
  simp [Part.substDecision, hnone, hpresent, hix, hne, husable, Config.substEntries]

end

/-! ### The part with the device fenced -/

/-- A device that is charged with a failure and fenced by it (R75, R77). -/
def DeviceRecord.fencedOut (r : DeviceRecord) : DeviceRecord := { r with health := .fenced, faults := min 15 (r.faults + 1) }

/-- The Device Status Unit after the fence of `d`. -/
def Part.devAfterFence (s : Part) (d : DevIx) : DeviceUnit :=
  (s.substDecision d).applyTo (s.dev.put d (s.dev.get d).fencedOut) d

/-- The part after the fence of an attempt's device, before the re-resolutions. -/
def Part.fenced (s : Part) (a : Attempt) (g : Byte) (code : ResultCode) : Part :=
  ((s.request (deviceFencedRecord s.now a g code)).requestIf
    ((s.substDecision a.device).record s.now a.device a.card g)).changeDevice (s.devAfterFence a.device) a.device

/-- A failure that brings the count to the threshold fences the device, and the cards that wait for it are resolved again. -/
theorem Part.deviceFailed_fences {s : Part} {a : Attempt} (hhealth : (s.dev.get a.device).health ≠ .fenced)
    (hzero : a.entry.threshold ≠ 0) (hreached : a.entry.threshold ≤ min 15 ((s.dev.get a.device).faults + 1)) (g : Byte)
    (code : ResultCode) :
    s.deviceFailed a g code = (s.fenced a g code).reresolveWhere (fun c => c.resolved == a.device) := by
  unfold Part.deviceFailed
  simp only
  rw [if_neg hhealth, if_pos ⟨hzero, hreached⟩]
  rfl

theorem DeviceUnit.statusWord_ne_of_health {u u' : DeviceUnit} {d : DevIx} (h : (u.get d).health ≠ (u'.get d).health) :
    u'.statusWord d ≠ u.statusWord d := by
  intro hword
  have hbyte := congrArg (fun w => Word.byte w 0) hword
  simp only [DeviceUnit.statusWord, Word.byte_zero_ofBytes] at hbyte
  revert h hbyte
  cases (u.get d).health <;> cases (u'.get d).health <;> decide

section
variable {s : Part} {a : Attempt} {g : Byte} {code : ResultCode}

theorem Part.devAfterFence_get (s : Part) (d e : DevIx) :
    (s.devAfterFence d).get e = if e = d then (s.dev.get d).fencedOut else s.dev.get e := by
  rw [Part.devAfterFence, SubstDecision.applyTo_get, DeviceUnit.get_put]

/-- The fence of a device with room for two records: the records, the device's new record and its status word. -/
theorem Part.fenced_eq (hrun : s.run.state = .running) (hroom : s.rep.queue.length + 2 ≤ 16) :
    s.fenced a g code =
      { s with
        dev := s.devAfterFence a.device
        rep :=
          { s.rep with
            mem := s.rep.mem.withStatus s.dev (s.devAfterFence a.device) a.device
            queue := s.rep.queue ++ deviceFencedRecord s.now a g code ::
              ((s.substDecision a.device).record s.now a.device a.card g).toList } } := by
  have hfirst := Part.request_room (f := deviceFencedRecord s.now a g code) hrun (Or.inl rfl) (by omega)
  unfold Part.fenced
  rw [Part.changeDevice_eq, hfirst]
  cases hx : s.substDecision a.device with
  | nothing => rfl
  | enter x | full x =>
    simp only [SubstDecision.record, Part.requestIf]
    rw [Part.request_room (s := { s with rep := { s.rep with queue := s.rep.queue ++ [deviceFencedRecord s.now a g code] } }) hrun
      (Or.inl rfl) (by simp only [List.length_append, List.length_singleton]; omega)]
    simp only [List.append_assoc, List.singleton_append, Option.toList_some]

/-- Its status word shows the fence (R86). -/
theorem Part.fenced_status (hm : s.rep.mem.wf = true) (hrun : s.run.state = .running) (hroom : s.rep.queue.length + 2 ≤ 16)
    (hhealth : (s.dev.get a.device).health ≠ .fenced) :
    (s.fenced a g code).rep.mem.wf = true ∧
      (s.fenced a g code).rep.mem.word (Addr.status a.device) = (s.devAfterFence a.device).statusWord a.device ∧
        ∀ b : Nat, 0x0100 ≤ b → b < 0x0500 → (s.fenced a g code).rep.mem.get b = s.rep.mem.get b := by
  have hmem : (s.fenced a g code).rep.mem = s.rep.mem.withStatus s.dev (s.devAfterFence a.device) a.device := by
    rw [Part.fenced_eq hrun hroom]
  have hne : (s.devAfterFence a.device).statusWord a.device ≠ s.dev.statusWord a.device :=
    DeviceUnit.statusWord_ne_of_health (by rw [Part.devAfterFence_get, if_pos rfl]; exact hhealth)
  rw [hmem]
  refine ⟨Memory.wf_withStatus hm _ _ _, (Memory.word_withStatus hm _ _ _).trans (if_neg hne), fun b h1 h2 => ?_⟩
  exact Memory.get_withStatus hm _ _ (by simp only [Addr.status]; omega)

end

/-! ### The cards that wait for the device (R74, R79) -/

theorem nodup_allCards : allCards.Nodup := List.nodup_finRange _

/-- A waiting card that is to be resolved again is so once, after some other cards and before the rest. -/
theorem Part.reresolveWhere_at {s : Part} {p : Context → Bool} {m : CardIx} {y : Context} (hctx : s.ctx m = some y)
    (hwait : y.isWaiting = true) (hp : p y = true) :
    ∃ before after : List CardIx, m ∉ before ∧ m ∉ after ∧
      s.reresolveWhere p = after.foldl Part.reresolve ((before.foldl Part.reresolve s).reresolve m) := by
  generalize hq : (fun n => match s.ctx n with | some c => c.isWaiting && p c | none => false) = q
  have hfold : s.reresolveWhere p = (allCards.filter q).foldl Part.reresolve s := by rw [← hq]; rfl
  have hm : m ∈ allCards.filter q := by
    refine List.mem_filter.mpr ⟨List.mem_finRange m, ?_⟩
    rw [← hq]
    simp [hctx, hwait, hp]
  obtain ⟨before, after, hsplit⟩ := List.append_of_mem hm
  have hnodup : (before ++ m :: after).Nodup := hsplit ▸ nodup_allCards.filter q
  obtain ⟨_, hafter, hbefore⟩ := List.nodup_append.mp hnodup
  refine ⟨before, after, fun h => hbefore m h m List.mem_cons_self rfl, (List.nodup_cons.mp hafter).1, ?_⟩
  rw [hfold, hsplit, List.foldl_append, List.foldl_cons]

/-- Re-resolutions change no resolution. -/
theorem foldl_reresolve_resolve {s : Part} (hm : s.rep.mem.wf = true) (ns : List CardIx) (d : DevIx) :
    (ns.foldl Part.reresolve s).resolve d = s.resolve d := by
  have honly := foldl_reresolve_onlyCards ns s
  have htables := foldl_reresolve_rep (fun n _ => keepsTables_closed s.rep.mem n) (ns := ns) (s := s) ⟨hm, fun _ _ _ => rfl⟩
  refine Part.resolve_congr (s := s) (fun b h1 h2 => htables.2 b h1 (by omega)) (fun e => by rw [honly.dev]) (by rw [honly.dev])
    (Part.portFenced_congr (fun q => ?_) honly.four) d
  unfold Part.twoAt
  rw [honly.two]

/-- A waiting card whose device is served moves to the port of the device that serves, with its window (R79). -/
theorem Part.reresolveWhere_moved {s : Part} (hm : s.rep.mem.wf = true) {p : Context → Bool} {m : CardIx} {y : Context} {r : Resolution}
    (hctx : s.ctx m = some y) (hwait : y.isWaiting = true) (hp : p y = true) (hr : s.resolve y.device = .ok r) :
    (s.reresolveWhere p).ctx m = some (y.placed r y.windowExpiry) := by
  obtain ⟨before, after, hbefore, hafter, hfold⟩ := Part.reresolveWhere_at hctx hwait hp
  have hctx' := (foldl_reresolve_ctx hbefore (s := s)).trans hctx
  have hr' := (foldl_reresolve_resolve hm before y.device).trans hr
  rw [hfold, foldl_reresolve_ctx hafter, Part.reresolve, hctx']
  simp only [hr']
  exact Part.setCtx_ctx_self _ _ _

/-- A waiting ONCE card whose device none serves ends FAILED, and no later card's rules change what it shows (R74). -/
theorem Part.reresolveWhere_failed {s : Part} (hm : s.rep.mem.wf = true) {p : Context → Bool} {m : CardIx} {y : Context}
    {code : ResultCode} (hctx : s.ctx m = some y) (hwait : y.isWaiting = true) (hp : p y = true)
    (hr : s.resolve y.device = .error code) (hcode : code ≠ .ok) (hkind : y.kind = .once) (hend : y.pendingEnd = .none)
    (hlast : y.last = none) :
    (s.reresolveWhere p).ctx m = none ∧ (s.reresolveWhere p).rep.Ended m y.generation .failed code := by
  obtain ⟨before, after, hbefore, hafter, hfold⟩ := Part.reresolveWhere_at hctx hwait hp
  have hctx' := (foldl_reresolve_ctx hbefore (s := s)).trans hctx
  have hr' := (foldl_reresolve_resolve hm before y.device).trans hr
  have hwf := (foldl_reresolve_rep (fun n _ => keepsTables_closed s.rep.mem n) (ns := before) (s := s) ⟨hm, fun _ _ _ => rfl⟩).1
  generalize before.foldl Part.reresolve s = t at hctx' hr' hwf hfold
  have hended : t.reresolve m = (t.untriedCounted m y).endCard m y.failedUntried .failed code := by
    rw [Part.reresolve, hctx']
    simp only [hr']
    rw [Part.endInstance_untried hkind hend hlast hcode, Part.finish_free (Part.endCard_ctx _ _ _ _ _)]
  have hwf' := (Part.untriedCounted_mem hwf m y).1
  have hshown : (t.reresolve m).cardEnded m y.generation .failed code := by
    rw [hended]
    exact Part.endCard_cardEnded hwf' m y.failedUntried .failed code
  have hkept : (t.reresolve m).rep.mem.wf = true := ((keepsTables_closed t.rep.mem m).reresolve ⟨hwf, fun _ _ _ => rfl⟩).1
  obtain ⟨hfree, hrep⟩ := (Part.cardEnded_iff hkept).mp hshown
  rw [hfold]
  exact ⟨(foldl_reresolve_ctx hafter).trans hfree,
    foldl_reresolve_rep (fun n hn => ended_closed (n := n) (m := m) (fun e => hafter (e ▸ hn)) _ _ _) hrep⟩

end Sys2Proof.Machine
end

section
/-! The failure that brings a device's fault count to its threshold (R75, R77 to R79). -/

namespace Sys2Proof.Machine

/-! ### Resolutions after the fence (R73) -/

section
variable {s : Part} {a : Attempt} {g : Byte} {code : ResultCode}

theorem Part.devAfterFence_isFenced_self (s : Part) (d : DevIx) : (s.devAfterFence d).isFenced d = true := by
  rw [DeviceUnit.isFenced, Part.devAfterFence_get, if_pos rfl]
  rfl

theorem Part.devAfterFence_isFenced_other {d e : DevIx} (h : e ≠ d) : (s.devAfterFence d).isFenced e = s.dev.isFenced e := by
  rw [DeviceUnit.isFenced, Part.devAfterFence_get, if_neg h]
  rfl

theorem Part.devAfterFence_nothing {d : DevIx} (h : s.substDecision d = .nothing) :
    s.devAfterFence d = s.dev.put d (s.dev.get d).fencedOut := by
  rw [Part.devAfterFence, h]
  rfl

theorem Part.devAfterFence_full {d x : DevIx} (h : s.substDecision d = .full x) :
    s.devAfterFence d = s.dev.put d (s.dev.get d).fencedOut := by
  rw [Part.devAfterFence, h]
  rfl

theorem Part.devAfterFence_enter {d x : DevIx} (hnone : s.dev.standbyOf d = none) (h : s.substDecision d = .enter x) :
    s.devAfterFence d = { s.dev.put d (s.dev.get d).fencedOut with subst := s.dev.subst ++ [(d, x)] } := by
  rw [Part.devAfterFence, h]
  exact DeviceUnit.enter_eq (u := s.dev.put d (s.dev.get d).fencedOut) hnone x

/-- The fence changes no port. -/
theorem Part.fenced_portFenced (hrun : s.run.state = .running) (hroom : s.rep.queue.length + 2 ≤ 16) (p : PortIx) :
    (s.fenced a g code).portFenced p = s.portFenced p := by
  rw [Part.fenced_eq hrun hroom]
  rfl

/-- The standby that has been entered serves for the fenced device (R73, R78). -/
theorem Part.fenced_resolve_standby (hm : s.rep.mem.wf = true) (hrun : s.run.state = .running) (hroom : s.rep.queue.length + 2 ≤ 16)
    (hhealth : (s.dev.get a.device).health ≠ .fenced) {x : DevIx} (hnone : s.dev.standbyOf a.device = none)
    (hdecision : s.substDecision a.device = .enter x) (hentry : (readEntry s.rep.mem a.device).usable = true) (hne : x ≠ a.device)
    (husable : s.usableStandby x = true) (hport : s.portFenced (readEntry s.rep.mem x).portIx = false) :
    (s.fenced a g code).resolve a.device =
      .ok { device := x, port := (readEntry s.rep.mem x).portIx, entry := readEntry s.rep.mem x, substituted := true } := by
  obtain ⟨_, _, htable⟩ := Part.fenced_status (g := g) (code := code) hm hrun hroom hhealth
  have hread := readEntry_congr htable
  have hdev : (s.fenced a g code).dev = s.devAfterFence a.device := by rw [Part.fenced_eq hrun hroom]
  have hpair : (s.devAfterFence a.device).standbyOf a.device = some x := by
    rw [Part.devAfterFence_enter hnone hdecision]
    exact DeviceUnit.standbyOf_entered (u := s.dev.put a.device (s.dev.get a.device).fencedOut) hnone x
  obtain ⟨hxEntry, hxHealth⟩ := Bool.and_eq_true_iff.mp husable
  have hxUsable : (s.fenced a g code).usableStandby x = true := by
    rw [Part.usableStandby, hread, hdev, Part.devAfterFence_isFenced_other hne, hxEntry, hxHealth]
    rfl
  have hserving : (s.fenced a g code).serving a.device = some (x, true) := by
    simp [Part.serving, hdev, Part.devAfterFence_isFenced_self, hpair, hxUsable]
  simp [Part.resolve, hread, hentry, hserving, Part.fenced_portFenced hrun hroom, hport]

/-- Without a standby none serves for the fenced device (R73). -/
theorem Part.fenced_resolve_none (hm : s.rep.mem.wf = true) (hrun : s.run.state = .running) (hroom : s.rep.queue.length + 2 ≤ 16)
    (hhealth : (s.dev.get a.device).health ≠ .fenced) (hnone : s.dev.standbyOf a.device = none)
    (hdecision : s.substDecision a.device = .nothing) (hentry : (readEntry s.rep.mem a.device).usable = true) :
    (s.fenced a g code).resolve a.device = .error .deviceFenced := by
  obtain ⟨_, _, htable⟩ := Part.fenced_status (g := g) (code := code) hm hrun hroom hhealth
  have hread := readEntry_congr htable
  have hdev : (s.fenced a g code).dev = s.devAfterFence a.device := by rw [Part.fenced_eq hrun hroom]
  have hpair : (s.devAfterFence a.device).standbyOf a.device = none := by
    rw [Part.devAfterFence_nothing hdecision]
    exact hnone
  have hserving : (s.fenced a g code).serving a.device = none := by
    simp [Part.serving, hdev, Part.devAfterFence_isFenced_self, hpair]
  simp [Part.resolve, hread, hentry, hserving]

end

/-! ### The attempt that fences its device -/

/-- What an attempt leaves whose failure fences its device and ends its card: the card's end, the device and its status word, the records,
and the cards that waited for the device. -/
structure Part.FencedBy (s t : Part) (a : Attempt) (c : Context) (code : ResultCode) : Prop where
  ended : t.cardEnded a.card c.generation .failed code
  dev : t.dev = s.devAfterFence a.device
  status : t.rep.mem.word (Addr.status a.device) = t.dev.statusWord a.device
  queue : (∀ m x, s.ctx m = some x → x.isWaiting = false) →
    t.rep.queue = s.rep.queue ++ deviceFencedRecord s.now a c.generation code ::
      ((s.substDecision a.device).record s.now a.device a.card c.generation).toList
  moved : ∀ m y r, m ≠ a.card → s.ctx m = some y → y.isWaiting = true → y.resolved = a.device →
    (s.fenced a c.generation code).resolve y.device = .ok r → t.ctx m = some (y.placed r y.windowExpiry)
  failed : ∀ m y code', m ≠ a.card → s.ctx m = some y → y.isWaiting = true → y.resolved = a.device →
    (s.fenced a c.generation code).resolve y.device = .error code' → code' ≠ .ok → y.kind = .once → y.pendingEnd = .none →
    y.last = none → t.cardEnded m y.generation .failed code'

/-- The failure charged to a device that it fences, and the card's end. -/
theorem Part.fencedBy_failedWith {s : Part} (hm : s.rep.mem.wf = true) (hrun : s.run.state = .running)
    (hroom : s.rep.queue.length + 2 ≤ 16) {a : Attempt} {c x : Context} {code : ResultCode} {la : LastAttempt}
    (hhealth : (s.dev.get a.device).health ≠ .fenced) (hzero : a.entry.threshold ≠ 0)
    (hreached : a.entry.threshold ≤ min 15 ((s.dev.get a.device).faults + 1)) (hlast : x.last = some la)
    (hgen : x.generation = c.generation) :
    Part.FencedBy s ((s.deviceFailed a c.generation code).failedWith a.card x code) a c code := by
  obtain ⟨hfwf, hfstatus, _⟩ := Part.fenced_status (g := c.generation) (code := code) hm hrun hroom hhealth
  have hfdev : (s.fenced a c.generation code).dev = s.devAfterFence a.device := by rw [Part.fenced_eq hrun hroom]
  have hfctx : ∀ m, (s.fenced a c.generation code).ctx m = s.ctx m := fun m => by rw [Part.fenced_eq hrun hroom]; rfl
  have hfqueue : (s.fenced a c.generation code).rep.queue = s.rep.queue ++ deviceFencedRecord s.now a c.generation code ::
      ((s.substDecision a.device).record s.now a.device a.card c.generation).toList := by rw [Part.fenced_eq hrun hroom]
  rw [Part.deviceFailed_fences hhealth hzero hreached]
  generalize hf : s.fenced a c.generation code = f at hfwf hfstatus hfdev hfctx hfqueue ⊢
  have honly := reresolveWhere_onlyCards f (fun y => y.resolved == a.device)
  have htables : KeepsTables f.rep.mem (f.reresolveWhere (fun y => y.resolved == a.device)).rep :=
    foldl_reresolve_rep (fun n _ => keepsTables_closed f.rep.mem n) ⟨hfwf, fun _ _ _ => rfl⟩
  have hnone : (∀ m x, s.ctx m = some x → x.isWaiting = false) →
      f.reresolveWhere (fun y => y.resolved == a.device) = f := fun h =>
    Part.reresolveWhere_none (fun m y hy _ => h m y ((hfctx m).symm.trans hy))
  have hmoved : ∀ m y r, s.ctx m = some y → y.isWaiting = true → y.resolved = a.device → f.resolve y.device = .ok r →
      (f.reresolveWhere (fun y => y.resolved == a.device)).ctx m = some (y.placed r y.windowExpiry) := fun m y r hy hwait hres hr =>
    Part.reresolveWhere_moved hfwf ((hfctx m).trans hy) hwait (by simpa using hres) hr
  have hfailed : ∀ m y code', s.ctx m = some y → y.isWaiting = true → y.resolved = a.device → f.resolve y.device = .error code' →
      code' ≠ .ok → y.kind = .once → y.pendingEnd = .none → y.last = none →
      (f.reresolveWhere (fun y => y.resolved == a.device)).ctx m = none ∧
        (f.reresolveWhere (fun y => y.resolved == a.device)).rep.Ended m y.generation .failed code' :=
    fun m y code' hy hwait hres hr hcode hkind hend hylast =>
      Part.reresolveWhere_failed hfwf ((hfctx m).trans hy) hwait (by simpa using hres) hr hcode hkind hend hylast
  generalize f.reresolveWhere (fun y => y.resolved == a.device) = w at honly htables hnone hmoved hfailed ⊢
  obtain ⟨hended, _, hqueue, hbytes⟩ := Part.failedWith_spec htables.1 hlast code (n := a.card)
  have hctx : ∀ m, m ≠ a.card → (w.failedWith a.card x code).ctx m = w.ctx m := fun m hmn => by
    rw [Part.failedWith_eq hlast]
    exact Part.setCtx_ctx_other w none hmn
  have hdev : (w.failedWith a.card x code).dev = s.devAfterFence a.device := by
    rw [Part.failedWith_eq hlast]
    exact honly.dev.trans hfdev
  have hown := (keepsTables_closed f.rep.mem a.card).failedWith htables x code
  exact {
    ended := by rw [← hgen]; exact hended
    dev := hdev
    status := by
      have hd : a.device.val < 64 := a.device.isLt
      rw [hdev, ← hfstatus]
      refine Memory.word_congr (fun b h1 h2 => ?_)
      simp only [Addr.status] at h1 h2
      exact hown.2 b (by omega) (by omega)
    queue := fun h => by rw [hqueue, hnone h, hfqueue]
    moved := fun m y r hmn hy hwait hres hr => (hctx m hmn).trans (hmoved m y r hy hwait hres (hf ▸ hr))
    failed := fun m y code' hmn hy hwait hres hr hcode hkind hend hylast => by
      obtain ⟨hfree, hrep⟩ := hfailed m y code' hy hwait hres (hf ▸ hr) hcode hkind hend hylast
      exact (Part.cardEnded_iff hown.1).mpr ⟨(hctx m hmn).trans hfree,
        (ended_closed (Ne.symm hmn) _ _ _).failedWith hrep x code⟩ }

/-- The failure of an attempt that fences its device. -/
theorem Part.attemptEnded_fences {s : Part} (hm : s.rep.mem.wf = true) {a : Attempt} {c : Context} {o : AttemptOutcome}
    {kind : FaultKind} {code : ResultCode} {la : LastAttempt} (hrun : s.run.state = .running) (hctx : s.ctx a.card = some c)
    (hkind : o.recordKind = some kind) (hverdict : c.verdict a.entry.retryLimit o = .fail code) (hcode : code ≠ .ok) {x : Context}
    (hx : s.afterAttempt c a o s.now = x) (hlast : x.last = some la) (hgen : x.generation = c.generation)
    (hbank : x.bankCount = 0) (hend : x.pendingEnd = .none) (hcard : x.failureEnds)
    (hhealth : (s.dev.get a.device).health ≠ .fenced) (hzero : a.entry.threshold ≠ 0)
    (hreached : a.entry.threshold ≤ min 15 ((s.dev.get a.device).faults + 1)) (hroom : s.rep.queue.length + 3 ≤ 16) (port : PortIx)
    (p : BusPoint) :
    ∃ q t : Part,
      q = { s with
        rep :=
          { s.rep with
            queue := s.rep.queue ++ [s.errorRecord kind port a c .ending code p.phase p.leg p.byteIndex p.lastAddress p.lastByte
              p.levels] } } ∧
        s.attemptEnded port a o s.now p = t ∧ Part.FencedBy q t a c code := by
  have hfails := Part.attemptEnded_fails hrun hctx hkind hverdict hcode hx hlast hgen hbank hend hcard port p
  rw [Part.request_room (s := s) hrun (Or.inr rfl) (by omega)] at hfails
  refine ⟨_, _, rfl, hfails, ?_⟩
  exact Part.fencedBy_failedWith (s := { s with rep := { s.rep with queue := s.rep.queue ++ [_] } }) hm hrun
    (by simp only [List.length_append, List.length_singleton]; omega) hhealth hzero hreached hlast hgen

/-- A stop that the part drives fences no port and clears no fence. -/
theorem Part.stopDriven_portFenced {s : Part} {p : TwoIx} {a : Attempt} {start : Time} {c : Context} (h : s.carriesOut p a start c)
    (wire : List BusItem) (port : PortIx) : (s.stopDriven p wire).portFenced port = s.portFenced port := by
  obtain ⟨⟨phase, hphase⟩, _⟩ := h
  refine Part.portFenced_congr (s := s) (t := s.stopDriven p wire) (fun q => ?_) rfl port
  rw [Part.stopDriven, Part.setTwo_twoAt]
  split
  · rename_i hq
    rw [hq]
    simp [TwoWire.isFenced, TwoWire.afterStop, hphase]
  · rfl

/-- Settles O42: the fence with its records, the standby that takes over, the full map, and the cards that waited. -/
theorem failureAtThresholdFencesDevice : Obligations.FailureAtThresholdFencesDevice := by
  intro s p a start c l leg i rx levels b cur byte hm hrun h hat hkind hleg hi honce hend hbank hhealth hzero hreached hnone hroom
    entry unwaited fenced bare records substitution
  have hbyte : SlotKind.outByte cur.kind = some byte := by rw [hkind]; rfl
  have hstop := (Part.dataNack_eq (rx := rx) h hleg hi levels).trans (Part.refusedByte_eq h hat hbyte .dataNack levels)
  rw [lastAddress_concat_other (Slot.addressByte_none (Or.inl ⟨byte, hkind⟩))] at hstop
  generalize stoppedWire b rx (refusedItems cur byte) = wire at hstop
  obtain ⟨q, t, hq, hpart, hfence⟩ := Part.attemptEnded_fences (s := s.part.stopDriven p wire) hm hrun (Part.stopDriven_ctx h wire) rfl
    (Context.verdict_final (o := .dataNack) rfl hend) (by decide) (Part.afterAttempt_eq (by decide)) rfl rfl hbank hend (Or.inl honce)
    hhealth hzero hreached hroom (twoPort p)
    (pointAt (.data leg i) c.legs.length (lastAddress b.complete) byte (twoLevels levels))
  have hqdev : q.dev = s.part.dev := by rw [hq]; rfl
  have hqmem : q.rep.mem = s.part.rep.mem := by rw [hq]; rfl
  have hqctx : ∀ m, q.ctx m = s.part.ctx m := fun m => by rw [hq]; rfl
  have hqnow : q.now = s.part.time.count := by rw [hq]; rfl
  have hqrun : q.run.state = .running := by rw [hq]; exact hrun
  have hqroom : q.rep.queue.length + 2 ≤ 16 := by
    rw [hq]
    simp only [List.length_append, List.length_singleton]
    exact hroom
  have hqwf : q.rep.mem.wf = true := by rw [hqmem]; exact hm
  have hqport : ∀ port, q.portFenced port = s.part.portFenced port := fun port => by
    rw [hq]
    exact Part.stopDriven_portFenced h wire port
  have hqnone : q.dev.standbyOf a.device = none := by rw [hqdev]; exact hnone
  have hqhealth : (q.dev.get a.device).health ≠ .fenced := by rw [hqdev]; exact hhealth
  have hqusable : ∀ x, q.usableStandby x = s.part.usableStandby x := fun x => by rw [Part.usableStandby, hqmem, hqdev]; rfl
  have hqfenced : q.dev.put a.device (q.dev.get a.device).fencedOut = fenced := by rw [hqdev]; rfl
  have hqueue : ∀ d : SubstDecision, q.substDecision a.device = d → unwaited →
      t.rep.queue = s.part.rep.queue ++ records ++ (d.record s.part.time.count a.device a.card c.generation).toList := by
    intro d hd hwait
    rw [hfence.queue (fun m x hx => hwait m x ((hqctx m).symm.trans hx)), hd, hqnow, hq]
    simp only [List.append_assoc, List.cons_append, List.nil_append, records]
    rfl
  have hnothing : entry.standby = 0xFF → q.substDecision a.device = .nothing := fun h =>
    Part.substDecision_nothing hqnone (by rw [hqmem]; exact h)
  refine ⟨{ s with part := t }, next_congr (hstop.trans hpart), hfence.ended, hfence.status, fun hwait hstandby => ?_,
    fun x hpresent hstandby hne husable => ?_, fun hpresent hlegal hstandby m y hmn hy hwait hres hdev hkind' hend' hlast => ?_⟩
  · refine ⟨hfence.dev.trans ((Part.devAfterFence_nothing (hnothing hstandby)).trans hqfenced), ?_⟩
    simpa [SubstDecision.record] using hqueue .nothing (hnothing hstandby) hwait
  · have hdecision := Part.substDecision_standby hqnone (by rw [hqmem]; exact hpresent) (by rw [hqmem]; exact hstandby) hne
      (by rw [hqusable]; exact husable)
    rw [hqdev] at hdecision
    refine ⟨fun hfew => ?_, fun hfew hwait => ?_, fun hfew hlegal hport m y hmn hy hwait hres hdev => ?_, fun hfull hwait => ?_⟩
    · rw [if_pos hfew] at hdecision
      refine hfence.dev.trans ((Part.devAfterFence_enter hqnone hdecision).trans ?_)
      rw [hqfenced, hqdev]
    · rw [if_pos hfew] at hdecision
      exact hqueue (.enter x) hdecision hwait
    · rw [if_pos hfew] at hdecision
      have hserved := Part.fenced_resolve_standby (g := c.generation) (code := .dataRefused) hqwf hqrun hqroom hqhealth hqnone hdecision
        (by rw [hqmem]; exact Bool.and_eq_true_iff.mpr ⟨hpresent, hlegal⟩) hne (by rw [hqusable]; exact husable)
        (by rw [hqport, hqmem]; exact hport)
      rw [hqmem] at hserved
      exact hfence.moved m y _ hmn ((hqctx m).trans hy) hwait hres (by rw [hdev]; exact hserved)
    · rw [if_neg (Nat.not_lt.mpr hfull)] at hdecision
      exact ⟨hfence.dev.trans ((Part.devAfterFence_full hdecision).trans hqfenced), hqueue (.full x) hdecision hwait⟩
  · have hunserved := Part.fenced_resolve_none (g := c.generation) (code := .dataRefused) hqwf hqrun hqroom hqhealth hqnone
      (hnothing hstandby) (by rw [hqmem]; exact Bool.and_eq_true_iff.mpr ⟨hpresent, hlegal⟩)
    exact hfence.failed m y .deviceFenced hmn ((hqctx m).trans hy) hwait hres (by rw [hdev]; exact hunserved) (by decide) hkind' hend'
      hlast

end Sys2Proof.Machine
end

section
/-! The substitution map (R83): the changes that keep it legal, and the ends of attempts among them (R43, R78, R84, R85). -/

namespace Sys2Proof.Machine

/-! ### The changes of the map -/

/-- A list of pairs is a legal substitution map: at most 8 entries, no device the primary of two, no standby its own primary (R83). -/
def LegalMap (m : List (DevIx × DevIx)) : Prop :=
  m.length ≤ Config.substEntries ∧ (m.map Prod.fst).Nodup ∧ ∀ e ∈ m, e.1 ≠ e.2

theorem Part.substLegal_iff (s : Part) : s.substLegal ↔ LegalMap s.dev.subst := Iff.rfl

theorem legalMap_nil : LegalMap [] := ⟨Nat.zero_le _, List.nodup_nil, fun _ h => by cases h⟩

theorem LegalMap.sublist {m m' : List (DevIx × DevIx)} (h : LegalMap m) (hsub : m'.Sublist m) : LegalMap m' := by
  obtain ⟨hlen, hnodup, hne⟩ := h
  exact ⟨hsub.length_le.trans hlen, hnodup.sublist (hsub.map _), fun e he => hne e (hsub.subset he)⟩

theorem DeviceUnit.standbyOf_isSome (u : DeviceUnit) (d : DevIx) :
    (u.standbyOf d).isSome = true ↔ ∃ e ∈ u.subst, e.1 = d := by
  simp [DeviceUnit.standbyOf]

/-- A pair replaced keeps every primary in its place. -/
theorem map_fst_replace (m : List (DevIx × DevIx)) (d b : DevIx) :
    (m.map (fun e => if e.1 == d then (d, b) else e)).map Prod.fst = m.map Prod.fst := by
  rw [List.map_map]
  refine List.map_congr_left (fun e _ => ?_)
  by_cases he : e.1 = d
  · simp [he]
  · simp [he]

/-- A pair entered or replaced (R43, R84): another device as the standby, and room in the map where the pair is new. -/
theorem LegalMap.enter {u : DeviceUnit} (h : LegalMap u.subst) {d b : DevIx} (hb : b ≠ d)
    (hroom : (u.standbyOf d).isSome = true ∨ u.subst.length < Config.substEntries) : LegalMap (u.enter d b).subst := by
  obtain ⟨hlen, hnodup, hne⟩ := h
  unfold DeviceUnit.enter
  split
  · refine ⟨by simpa using hlen, by rwa [map_fst_replace], fun e he => ?_⟩
    obtain ⟨x, hx, rfl⟩ := List.mem_map.mp he
    split
    · exact hb.symm
    · exact hne x hx
  · rename_i hnew
    have hnone : ∀ e ∈ u.subst, e.1 ≠ d := fun e he hd => hnew (List.any_eq_true.mpr ⟨e, he, beq_iff_eq.mpr hd⟩)
    have hlt : u.subst.length < Config.substEntries := hroom.resolve_left (fun hsome =>
      let ⟨e, he, hd⟩ := (u.standbyOf_isSome d).mp hsome
      hnone e he hd)
    refine ⟨by simpa using hlt, ?_, fun e he => ?_⟩
    · rw [List.map_append, List.map_singleton, ← List.concat_eq_append, List.nodup_concat]
      refine ⟨fun hmem => ?_, hnodup⟩
      obtain ⟨e, he, hd⟩ := List.mem_map.mp hmem
      exact hnone e he hd
    · rcases List.mem_append.mp he with hold | hone
      · exact hne e hold
      · rw [List.mem_singleton.mp hone]
        exact hb.symm

/-- A pair removed (R85). -/
theorem LegalMap.remove {u : DeviceUnit} (h : LegalMap u.subst) (d : DevIx) : LegalMap (u.remove d).subst :=
  h.sublist List.filter_sublist

/-- Automatic substitution enters a standby other than the device, where the map has room (R78). -/
theorem Part.substDecision_enter {s : Part} {d b : DevIx} (h : s.substDecision d = .enter b) :
    b ≠ d ∧ s.dev.subst.length < Config.substEntries := by
  unfold Part.substDecision at h
  split at h
  · cases h
  · split at h
    · cases h
    · split at h
      · cases h
      · split at h
        · cases h
        · rename_i hne
          split at h
          · rename_i hroom
            cases h
            exact ⟨fun hb => hne (Or.inl hb), hroom⟩
          · cases h

/-! ### Steps of the part -/

/-- A step from one part to another keeps the substitution map legal. -/
def KeepsMap (s t : Part) : Prop := LegalMap s.dev.subst → LegalMap t.dev.subst

theorem KeepsMap.refl (s : Part) : KeepsMap s s := id

theorem KeepsMap.trans {s t u : Part} (h : KeepsMap s t) (h' : KeepsMap t u) : KeepsMap s u := fun hs => h' (h hs)

/-- A step that leaves the Device Status Unit. -/
theorem KeepsMap.of_dev {s t : Part} (h : t.dev = s.dev) : KeepsMap s t := fun hs => by rwa [h]

/-- A step that goes on from a part with the same Device Status Unit. -/
theorem KeepsMap.after {s t u : Part} (h : KeepsMap t u) (hdev : t.dev = s.dev) : KeepsMap s u := (KeepsMap.of_dev hdev).trans h

theorem Part.changeDevice_dev (s : Part) (u : DeviceUnit) (d : DevIx) : (s.changeDevice u d).dev = u := by
  rw [Part.changeDevice_eq]

theorem KeepsMap.changeDevice {s : Part} {u : DeviceUnit} (h : LegalMap s.dev.subst → LegalMap u.subst) (d : DevIx) :
    KeepsMap s (s.changeDevice u d) := fun hs => by rw [Part.changeDevice_dev]; exact h hs

/-- One device takes another record. -/
theorem KeepsMap.putDevice (s : Part) (d : DevIx) (r : DeviceRecord) : KeepsMap s (s.changeDevice (s.dev.put d r) d) :=
  KeepsMap.changeDevice (u := s.dev.put d r) (fun hs => hs) d

theorem Part.tryStop_dev (s : Part) : s.tryStop.dev = s.dev := by
  unfold Part.tryStop
  split <;> rfl

/-! ### The ends of attempts -/

theorem Part.requestIf_dev (s : Part) (f : Option FaultRecord) : (s.requestIf f).dev = s.dev := by
  unfold Part.requestIf
  split <;> rfl

theorem fenceDevice_keepsMap (s : Part) (a : Attempt) (g : Byte) (code : ResultCode) (r : DeviceRecord) :
    KeepsMap s (s.fenceDevice a g code r) := by
  unfold Part.fenceDevice
  simp only
  refine KeepsMap.trans (fun hs => ?_) (KeepsMap.of_dev (reresolveWhere_onlyCards _ _).dev)
  rw [Part.changeDevice_dev]
  cases hx : s.substDecision a.device with
  | nothing | full _ => exact hs
  | enter b =>
    obtain ⟨hb, hroom⟩ := Part.substDecision_enter hx
    exact LegalMap.enter (u := s.dev.put a.device { r with health := .fenced }) hs hb (Or.inr hroom)

theorem deviceFailed_keepsMap (s : Part) (a : Attempt) (g : Byte) (code : ResultCode) : KeepsMap s (s.deviceFailed a g code) := by
  unfold Part.deviceFailed
  simp only
  split
  · exact KeepsMap.putDevice s _ _
  · split
    · exact fenceDevice_keepsMap s a g code _
    · exact KeepsMap.putDevice s _ _

theorem deviceSucceeded_keepsMap (s : Part) (d : DevIx) (setting : Bool) (guardTime : Nat) (stop : Time) :
    KeepsMap s (s.deviceSucceeded d setting guardTime stop) := by
  rw [Part.deviceSucceeded_eq]
  exact KeepsMap.putDevice s d _

theorem actOn_keepsMap (s : Part) (a : Attempt) (c : Context) (stop : Time) (data : List Byte) (v : Verdict) :
    KeepsMap s (s.actOn a c stop data v).1 := by
  unfold Part.actOn
  cases v with
  | succeed => exact (deviceSucceeded_keepsMap s _ _ _ _).trans (KeepsMap.of_dev (endInstance_onlyCard _ _ _ _ _ _).dev)
  | fail code => exact (deviceFailed_keepsMap s a _ code).trans (KeepsMap.of_dev (endInstance_onlyCard _ _ _ _ _ _).dev)
  | retry => exact KeepsMap.of_dev rfl
  | yieldAgain => exact KeepsMap.of_dev (placeInstance_onlyCard s _ _ _ _).dev
  | abandon =>
    simp only
    split <;> exact KeepsMap.of_dev rfl

theorem attemptEnded_keepsMap (s : Part) (port : PortIx) (a : Attempt) (o : AttemptOutcome) (stop : Time) (p : BusPoint) :
    KeepsMap s (s.attemptEnded port a o stop p) := by
  unfold Part.attemptEnded
  split
  · exact KeepsMap.of_dev s.tryStop_dev
  · exact ((actOn_keepsMap _ _ _ _ _ _).trans
      (KeepsMap.of_dev ((Part.tryStop_dev _).trans (finish_onlyCard _ _ _).dev))).after (Part.requestIf_dev s _)

end Sys2Proof.Machine
end

section
/-! Every step keeps the substitution map legal: the walk over the commands (R43, R78, R83 to R85, R169). -/

namespace Sys2Proof.Machine

/-! ### Ports -/

theorem loseStart_keepsMap (s : Part) (p : TwoIx) (a : Attempt) (levels : BitVec 2) : KeepsMap s (s.loseStart p a levels) :=
  KeepsMap.after (attemptEnded_keepsMap _ _ _ _ _ _) rfl

theorem startSeen_keepsMap (s : Part) (p : TwoIx) : KeepsMap s (s.startSeen p) := by
  unfold Part.startSeen
  simp only
  split
  · exact loseStart_keepsMap s p _ _
  · split <;> exact KeepsMap.of_dev rfl

theorem endByStop_keepsMap (s : Part) (p : TwoIx) (a : Attempt) (o : AttemptOutcome) (point : BusPoint) (wire : List BusItem) :
    KeepsMap s (s.endByStop p a o point wire) := KeepsMap.after (attemptEnded_keepsMap _ _ _ _ _ _) rfl

theorem twoDone_keepsMap (s : Part) (p : TwoIx) (data : List Byte) : KeepsMap s (s.twoDone p data) := by
  unfold Part.twoDone
  split
  · exact KeepsMap.refl s
  · split
    · exact endByStop_keepsMap s p _ _ _ _
    · exact KeepsMap.refl s

theorem refusedByte_keepsMap (s : Part) (p : TwoIx) (o : AttemptOutcome) (pos : BusPos) (rx : List Byte) (levels : BitVec 2)
    (f : SlotKind → Option Byte) : KeepsMap s (s.refusedByte p o pos rx levels f) := by
  unfold Part.refusedByte
  split
  · exact KeepsMap.refl s
  · split
    · exact KeepsMap.refl s
    · split
      · exact KeepsMap.refl s
      · split
        · exact KeepsMap.refl s
        · exact endByStop_keepsMap s p _ _ _ _

theorem wrongCheck_keepsMap (s : Part) (p : TwoIx) (pos : BusPos) (rx : List Byte) (got : Byte) (levels : BitVec 2) :
    KeepsMap s (s.wrongCheck p pos rx got levels) := by
  unfold Part.wrongCheck
  split
  · exact KeepsMap.refl s
  · split
    · exact KeepsMap.refl s
    · split
      · exact KeepsMap.refl s
      · split
        · exact endByStop_keepsMap s p _ _ _ _
        · exact KeepsMap.refl s

theorem dataNack_keepsMap (s : Part) (p : TwoIx) (leg i : Nat) (rx : List Byte) (levels : BitVec 2) :
    KeepsMap s (s.dataNack p leg i rx levels) := by
  unfold Part.dataNack
  split
  · exact KeepsMap.refl s
  · split
    · exact refusedByte_keepsMap s p _ _ _ _ _
    · exact KeepsMap.refl s

theorem checkMismatch_keepsMap (s : Part) (p : TwoIx) (leg : Nat) (rx : List Byte) (got : Option Byte) (levels : BitVec 2) :
    KeepsMap s (s.checkMismatch p leg rx got levels) := by
  unfold Part.checkMismatch
  split
  · exact KeepsMap.refl s
  · split
    · exact refusedByte_keepsMap s p _ _ _ _ _
    · exact wrongCheck_keepsMap s p _ _ _ _

theorem arbLost_keepsMap (s : Part) (p : TwoIx) (pos : BusPos) (rx : List Byte) (levels : BitVec 2) :
    KeepsMap s (s.arbLost p pos rx levels) := by
  unfold Part.arbLost
  split
  · exact loseStart_keepsMap s p _ _
  · split
    · exact KeepsMap.refl s
    · split
      · exact KeepsMap.refl s
      · split
        · exact KeepsMap.after (attemptEnded_keepsMap _ _ _ _ _ _) rfl
        · exact KeepsMap.refl s

theorem busError_keepsMap (s : Part) (p : TwoIx) (pos : BusPos) (rx : List Byte) (isStop : Bool) :
    KeepsMap s (s.busError p pos rx isStop) := by
  unfold Part.busError
  split
  · exact KeepsMap.refl s
  · split
    · exact KeepsMap.refl s
    · split
      · exact KeepsMap.after (attemptEnded_keepsMap _ _ _ _ _ _) rfl
      · exact KeepsMap.refl s

theorem Part.fenceEffects_dev (s : Part) (p : PortIx) : (s.fenceEffects p).dev = s.dev := (failReadyList_onlyCards _ p).dev

theorem Part.holdExpired_dev (s : Part) (p : TwoIx) (levels : BitVec 2) : (s.holdExpired p levels).dev = s.dev := by
  unfold Part.holdExpired
  simp only
  split
  · exact Part.fenceEffects_dev _ _
  · rfl

theorem endByDeselect_keepsMap (s : Part) (q : FourIx) (a : Attempt) (o : AttemptOutcome) (point : BusPoint) (wire : List BusItem) :
    KeepsMap s (s.endByDeselect q a o point wire) := KeepsMap.after (attemptEnded_keepsMap _ _ _ _ _ _) rfl

theorem fourFinished_keepsMap {s t : Part} {q : FourIx} {data : List Byte} (h : s.fourFinished q data = some t) : KeepsMap s t := by
  unfold Part.fourFinished at h
  split at h
  · cases h
  · split at h
    · cases h
      exact endByDeselect_keepsMap s q _ _ _ _
    · cases h

theorem fourDone_keepsMap (s : Part) (q : FourIx) (data : List Byte) : KeepsMap s (s.fourDone q data) := by
  unfold Part.fourDone
  cases h : s.fourFinished q data with
  | none => exact KeepsMap.refl s
  | some t => exact fourFinished_keepsMap h

theorem fourCheckMismatch_keepsMap (s : Part) (q : FourIx) (leg : Nat) (rx : List Byte) (got : Byte) (levels : BitVec 3) :
    KeepsMap s (s.fourCheckMismatch q leg rx got levels) := by
  unfold Part.fourCheckMismatch
  split
  · exact KeepsMap.refl s
  · split
    · exact KeepsMap.refl s
    · split
      · exact KeepsMap.refl s
      · split
        · exact KeepsMap.refl s
        · split
          · exact endByDeselect_keepsMap s q _ _ _ _
          · exact KeepsMap.refl s

theorem contendSelect_keepsMap (s : Part) (q : FourIx) (asserted : Bool) (a : Attempt) (levels : BitVec 3) :
    KeepsMap s (s.contendSelect q asserted a levels) := by
  unfold Part.contendSelect
  simp only
  split
  · exact endByDeselect_keepsMap s q _ _ _ _
  · exact KeepsMap.after (attemptEnded_keepsMap _ _ _ _ _ _) rfl

theorem contendData_keepsMap {s t : Part} {q : FourIx} {leg i : Nat} {rx : List Byte} {levels : BitVec 3}
    (h : s.contendData q leg i rx levels = some t) : KeepsMap s t := by
  unfold Part.contendData at h
  split at h
  · cases h
  · split at h
    · cases h
    · cases h
      exact endByDeselect_keepsMap s q _ _ _ _

theorem senseActive_keepsMap {s t : Part} {q : FourIx} {phase : FourPhase} {a : Attempt} {pos : SensePos} {rx : List Byte}
    {levels : BitVec 3} (h : s.senseActive q phase a pos rx levels = some t) : KeepsMap s t := by
  unfold Part.senseActive at h
  split at h
  · cases h
    exact contendSelect_keepsMap s q _ a levels
  · exact contendData_keepsMap h
  · exact fourFinished_keepsMap h
  · cases h

theorem senseAsserted_keepsMap (s : Part) (q : FourIx) (pos : SensePos) (rx : List Byte) (levels : BitVec 3) :
    KeepsMap s (s.senseAsserted q pos rx levels) := by
  unfold Part.senseAsserted
  simp only
  split
  · exact KeepsMap.refl s
  · split
    · exact KeepsMap.of_dev rfl
    · split
      · exact KeepsMap.of_dev rfl
      · exact KeepsMap.of_dev rfl
      · exact KeepsMap.of_dev rfl
      · rename_i phase a _
        cases h : (s.setSense q true).senseActive q phase a pos rx levels with
        | none => exact KeepsMap.refl s
        | some t => exact (senseActive_keepsMap h).after rfl

theorem Part.senseHoldExpired_dev (s : Part) (q : FourIx) (levels : BitVec 3) : (s.senseHoldExpired q levels).dev = s.dev := by
  unfold Part.senseHoldExpired
  simp only
  split
  · exact Part.fenceEffects_dev _ _
  · rfl

theorem Part.activate_dev (s : Part) (p : PortIx) (a : Attempt) (c : Context) : (s.activate p a c).dev = s.dev := by
  unfold Part.activate
  split <;> rfl

theorem Part.carryOutChoice_dev (s : Part) (p : PortIx) (x : Candidate) : (s.carryOutChoice p x).dev = s.dev := by
  unfold Part.carryOutChoice
  split
  · exact (finish_onlyCard _ _ _).dev.trans (endInstance_onlyCard _ _ _ _ _ _).dev
  · split
    · rfl
    · unfold Part.beginAttempt
      simp only [Part.activate_dev, Part.setCtx_dev]
      split <;> rfl

theorem Part.arbiterChoice_dev (s : Part) (p : PortIx) : (s.arbiterChoice p).dev = s.dev := by
  unfold Part.arbiterChoice
  split
  · split
    · rfl
    · exact Part.carryOutChoice_dev s p _
  · rfl

/-! ### Sweeps and visits -/

theorem Part.beginSweep_dev (s : Part) : s.beginSweep.dev = s.dev := by rw [Part.beginSweep_eq]

theorem Part.nudge_dev (s : Part) : s.nudge.dev = s.dev := by
  unfold Part.nudge
  split
  · split
    · exact s.beginSweep_dev
    · rfl
  · rfl

theorem Part.visitEnded_dev (s : Part) (n : CardIx) : (s.visitEnded n).dev = s.dev := by
  unfold Part.visitEnded
  split
  · exact Part.tryStop_dev _
  · split
    · rfl
    · unfold Part.completeSweep
      simp only
      split
      · exact Part.beginSweep_dev _
      · rfl

theorem Part.endVisit_dev (s : Part) (n : CardIx) : (s.endVisit n).dev = s.dev := by
  unfold Part.endVisit
  split
  · exact s.visitEnded_dev n
  · rfl

theorem Part.freshFields_dev (s : Part) (n : CardIx) (retried : Bool) : (s.freshFields n retried).dev = s.dev := by
  rw [Part.freshFields_eq, Part.report_dev]

theorem Part.endControl_dev (s : Part) (n : CardIx) (g : Byte) (retried : Bool) (state : ProgressState) (result : ResultCode) :
    (s.endControl n g retried state result).dev = s.dev := Part.freshFields_dev _ _ _

theorem Part.withdrawCard_dev (s : Part) (n : CardIx) : (s.withdrawCard n).dev = s.dev := by
  unfold Part.withdrawCard Part.withdrawActive
  split
  · split
    · split <;> rfl
    · rfl
  · rfl

theorem Part.takeTransfer_dev (s : Part) (n : CardIx) (g : Byte) (retried : Bool) (kind : TransferKind) (d : DevIx) (r : Request) :
    (s.takeTransfer n g retried kind d r).dev = s.dev := by
  unfold Part.takeTransfer
  split
  · unfold Part.accept
    simp only
    rw [(finish_onlyCard _ _ _).dev, Part.writeLive_dev, Part.freshFields_dev, Part.setCtx_dev, Part.setWaiting_dev]
  · unfold Part.enterWaiting
    simp only
    split
    · rfl
    · rw [Part.tell_dev, Part.report_dev, Part.freshFields_dev, Part.setWaiting_dev]

/-- SUBSTITUTE enters a standby other than its device, where the map has an entry of the device or room for one (R43). -/
theorem substitute_keepsMap (s : Part) (n : CardIx) (g : Byte) (d : DevIx) (aux : Nat) : KeepsMap s (s.substitute n g d aux).part := by
  unfold Part.substitute
  split
  · exact KeepsMap.refl s
  · rename_i b _
    split
    · exact KeepsMap.refl s
    · rename_i hinvalid
      have hb : b ≠ d := fun h => hinvalid (Or.inl h)
      split
      · rename_i hroom
        have hchange : KeepsMap s (s.changeDevice (s.dev.enter d b) d) := KeepsMap.changeDevice (fun hs => hs.enter hb hroom) d
        simp only
        split
        · exact hchange.trans (KeepsMap.of_dev (reresolveWhere_onlyCards _ _).dev)
        · exact hchange
      · exact KeepsMap.of_dev rfl

theorem restore_keepsMap (s : Part) (d : DevIx) : KeepsMap s (s.restore d).part := by
  unfold Part.restore
  split
  · have hremove : LegalMap s.dev.subst → LegalMap ((s.dev.put d DeviceRecord.reset).remove d).subst := fun hs =>
      LegalMap.remove (u := s.dev.put d DeviceRecord.reset) hs d
    exact (KeepsMap.changeDevice hremove d).trans (KeepsMap.of_dev (reresolveWhere_onlyCards _ _).dev)
  · exact KeepsMap.refl s

theorem Part.clearFour_dev (s : Part) (q : FourIx) : (s.clearFour q).part.dev = s.dev := by
  unfold Part.clearFour
  simp only
  split
  · split <;> rfl
  · rfl

theorem Part.portClear_dev (s : Part) (n : CardIx) (g : Byte) (retried : Bool) (port : PortIx) (dataHigh : Bool) :
    (s.portClear n g retried port dataHigh).dev = s.dev := by
  unfold Part.portClear
  split
  · unfold Part.clearTwo
    simp only
    split
    · split
      · exact Part.endControl_dev _ _ _ _ _ _
      · rfl
    · exact Part.endControl_dev _ _ _ _ _ _
  · exact (Part.endControl_dev _ _ _ _ _ _).trans (s.clearFour_dev _)

theorem intakeCard_keepsMap (s : Part) (n : CardIx) (g : Byte) (retried dataHigh : Bool) :
    KeepsMap s (s.intakeCard n g retried dataHigh) := by
  have hclear : (s.report (fun r => r.clearDone n)).dev = s.dev := rfl
  unfold Part.intakeCard
  simp only
  split
  · exact KeepsMap.of_dev (Part.freshFields_dev _ _ _)
  · exact KeepsMap.of_dev (Part.takeTransfer_dev _ _ _ _ _ _ _)
  · exact ((substitute_keepsMap _ n g _ _).trans (KeepsMap.of_dev (Part.endControl_dev _ _ _ _ _ _))).after hclear
  · exact ((restore_keepsMap _ _).trans (KeepsMap.of_dev (Part.endControl_dev _ _ _ _ _ _))).after hclear
  · exact KeepsMap.of_dev (Part.portClear_dev _ _ _ _ _ _)

theorem visit_keepsMap (s : Part) (dataHigh : Bool) : KeepsMap s (s.visit dataHigh) := by
  unfold Part.visit
  split
  · exact KeepsMap.refl s
  · split
    · refine KeepsMap.trans ?_ (KeepsMap.of_dev (Part.endVisit_dev _ _))
      unfold Part.visitCard
      split
      · exact KeepsMap.refl s
      · exact KeepsMap.of_dev rfl
      · exact KeepsMap.of_dev (s.withdrawCard_dev _)
      · exact intakeCard_keepsMap s _ _ _ dataHigh
    · exact KeepsMap.refl s

/-! ### Run Control -/

/-- A reset leaves the map empty (R83, R169). -/
theorem unitsReset_keepsMap (s : Part) : KeepsMap s s.unitsReset := fun _ => legalMap_nil

theorem softReset_keepsMap (s : Part) : KeepsMap s s.softReset := fun _ => legalMap_nil

theorem Part.quiesce_dev (s : Part) : s.quiesce.dev = s.dev := Part.tryStop_dev _

theorem Part.tryFinishAttach_dev (s : Part) : s.tryFinishAttach.dev = s.dev := by
  unfold Part.tryFinishAttach Part.finishAttach
  split
  · simp only
    split
    · exact Part.quiesce_dev _
    · exact Part.beginSweep_dev _
  · rfl

theorem Part.attachCheck_dev (s : Part) (p : TwoIx) (dataHigh : Bool) : (s.attachCheck p dataHigh).dev = s.dev := by
  unfold Part.attachCheck
  split <;> rfl

theorem Part.clearingEnd_dev (s : Part) (data0High data1High : Bool) : (s.clearingEnd data0High data1High).dev = s.dev := by
  unfold Part.clearingEnd
  split
  · rw [Part.tryFinishAttach_dev, Part.attachCheck_dev, Part.attachCheck_dev]
    rfl
  · rfl

theorem Part.runCommand_dev (s : Part) : s.runCommand.dev = s.dev := by
  have hattach : s.beginAttach.dev = s.dev := by
    unfold Part.beginAttach
    simp only
    split <;> rfl
  have hpass : ∀ (ns : List CardIx) (t : Part), (ns.foldl Part.passCard t).dev = t.dev := by
    intro ns
    induction ns with
    | nil => exact fun _ => rfl
    | cons n ns ih => exact fun t => (ih _).trans (finish_onlyCard _ _ _).dev
  unfold Part.runCommand
  split
  · exact hattach
  · exact hattach
  · exact (Part.beginSweep_dev _).trans (hpass allCards s.resumed)
  all_goals rfl

theorem Part.stopCommand_dev (s : Part) : s.stopCommand.dev = s.dev := by
  unfold Part.stopCommand
  split
  · exact s.quiesce_dev
  all_goals rfl

theorem Part.answerClear_dev (s : Part) (cleared : Bool) : (s.answerClear cleared).dev = s.dev := by
  unfold Part.answerClear
  split
  · rfl
  · simp only
    split <;> exact (Part.endVisit_dev _ _).trans (Part.endControl_dev _ _ _ _ _ _)

theorem afterRecovery_keepsMap (s : Part) (p : TwoIx) (cause : RecoveryCause) (stuck : Bool) :
    KeepsMap s (s.afterRecovery p cause stuck) := by
  unfold Part.afterRecovery
  split
  · exact attemptEnded_keepsMap s _ _ _ _ _
  · exact KeepsMap.of_dev s.tryFinishAttach_dev
  · exact KeepsMap.of_dev (s.answerClear_dev _)

theorem recoveryDone_keepsMap (s : Part) (p : TwoIx) (pulses : Nat) : KeepsMap s (s.recoveryDone p pulses) := by
  unfold Part.recoveryDone
  simp only
  split
  · exact KeepsMap.refl s
  · split
    · exact (afterRecovery_keepsMap _ p _ _).after rfl
    · exact KeepsMap.refl s

theorem portStuck_keepsMap (s : Part) (p : TwoIx) (reason : StuckBy) (dataHigh : Bool) :
    KeepsMap s (s.portStuck p reason dataHigh) := by
  unfold Part.portStuck
  simp only
  split
  · exact KeepsMap.refl s
  · split
    · refine (afterRecovery_keepsMap _ p _ _).after ?_
      unfold Part.stuckEffects
      split
      · exact Part.fenceEffects_dev _ _
      · exact Part.fenceEffects_dev _ _
      · rfl
    · exact KeepsMap.refl s

/-! ### The Host Access Port -/

theorem Part.hostWrite_dev (s : Part) (offset : Nat) (value : Word) (enables : BitVec 4) :
    (s.hostWrite offset value enables).dev = s.dev := by
  have hzeroed : s.mayHaveZeroed.dev = s.dev := by
    unfold Part.mayHaveZeroed
    split <;> rfl
  have hdrop : s.dropWrite.dev = s.dev := by
    unfold Part.dropWrite
    simp only
    split <;> exact hzeroed
  unfold Part.hostWrite
  split
  · rfl
  · split
    · exact hdrop
    all_goals rfl

theorem carryOut_keepsMap (s : Part) (i : Instr) : KeepsMap s (s.carryOut i) := by
  cases i
  case hostWrite => exact KeepsMap.of_dev (s.hostWrite_dev _ _ _)
  case run => exact KeepsMap.of_dev s.runCommand_dev
  case stop => exact KeepsMap.of_dev s.stopCommand_dev
  case reset => exact softReset_keepsMap s
  case nudge => exact KeepsMap.of_dev s.nudge_dev
  all_goals exact KeepsMap.of_dev rfl

theorem hostAccess_keepsMap (s : Part) (i : Instr) : KeepsMap s (s.hostAccess i) := by
  unfold Part.hostAccess
  split
  · exact KeepsMap.of_dev rfl
  · exact carryOut_keepsMap s i

theorem foldl_carryOut_keepsMap (is : List Instr) : ∀ s : Part, KeepsMap s (is.foldl Part.carryOut s) := by
  induction is with
  | nil => exact KeepsMap.refl
  | cons i is ih => exact fun s => (carryOut_keepsMap s i).trans (ih _)

theorem clearEnd_keepsMap (s : Part) : KeepsMap s s.clearEnd := by
  unfold Part.clearEnd
  split
  · exact (foldl_carryOut_keepsMap _ _).after rfl
  · exact KeepsMap.refl s

/-! ### Every command -/

theorem unlessReset_keepsMap {f : Part → Part} (hf : ∀ s, KeepsMap s (f s)) (s : Part) : KeepsMap s (s.unlessReset f) := by
  unfold Part.unlessReset
  split
  · exact KeepsMap.refl s
  · exact hf s

theorem Part.busFree_dev (s : Part) (p : TwoIx) (high : Measure) : (s.busFree p high).dev = s.dev := by
  unfold Part.busFree
  simp only
  split <;> rfl

theorem Part.driveStart_dev (s : Part) (p : TwoIx) (free : Measure) : (s.driveStart p free).dev = s.dev := by
  unfold Part.driveStart
  simp only
  split
  · rfl
  · split <;> rfl

theorem Part.stretchTimeout_dev (s : Part) (p : TwoIx) (pos : BusPos) (rx : List Byte) (low : Measure) (dataHigh : Bool) :
    (s.stretchTimeout p pos rx low dataHigh).dev = s.dev := by
  unfold Part.stretchTimeout
  split
  · rfl
  · split
    · rfl
    · split <;> rfl

theorem Part.selectAssert_dev (s : Part) (q : FourIx) (deselected idle : Measure) : (s.selectAssert q deselected idle).dev = s.dev := by
  unfold Part.selectAssert
  simp only
  split
  · split <;> rfl
  all_goals rfl

theorem Part.selectLeadEnd_dev (s : Part) (q : FourIx) (lead : Measure) : (s.selectLeadEnd q lead).dev = s.dev := by
  unfold Part.selectLeadEnd
  simp only
  split
  · split
    · split <;> rfl
    · rfl
  all_goals rfl

theorem Part.senseDeasserted_dev (s : Part) (q : FourIx) : (s.senseDeasserted q).dev = s.dev := by
  unfold Part.senseDeasserted
  simp only
  split <;> rfl

theorem Part.sweepTimerExpired_dev (s : Part) : s.sweepTimerExpired.dev = s.dev := by
  unfold Part.sweepTimerExpired
  split
  · exact s.beginSweep_dev
  · rfl

theorem Part.refLost_dev (s : Part) : s.refLost.dev = s.dev := by
  unfold Part.refLost
  split <;> rfl

theorem Part.refBack_dev (s : Part) : s.refBack.dev = s.dev := by
  unfold Part.refBack
  split <;> rfl

theorem Part.referenceEdge_dev (s : Part) (spacing : Option Nat) : (s.referenceEdge spacing).dev = s.dev := by
  unfold Part.referenceEdge
  split <;> rfl

theorem Part.referenceGap_dev (s : Part) : s.referenceGap.dev = s.dev := by
  unfold Part.referenceGap
  split <;> rfl

theorem Part.releaseReset_dev (s : Part) : s.releaseReset.dev = s.dev := by
  unfold Part.releaseReset
  split <;> rfl

/-- Every command that answers a next state keeps the substitution map legal. -/
theorem exec_keepsMap {i : Instr} {s t : State} (h : exec i s = .next t) : KeepsMap s.part t.part := by
  cases i with
  | hostWrite offset value enables =>
    simp only [exec, execHostWrite] at h
    split at h
    · cases h; exact hostAccess_keepsMap _ _
    · cases h
  | registerWriteIgnored offset value enables =>
    simp only [exec, execRegisterWriteIgnored] at h
    split at h
    · cases h; exact hostAccess_keepsMap _ _
    · cases h
  | run | stop | reset | nudge | causeWrite | enableWrite => cases h; exact hostAccess_keepsMap _ _
  | visit => cases h; exact visit_keepsMap _ _
  | powerOnReset => cases h; exact unitsReset_keepsMap _
  | powerOnClearEnd => cases h; exact clearEnd_keepsMap _
  | timeCountTick => cases h; exact unlessReset_keepsMap (f := Part.tick) (fun _ => KeepsMap.of_dev rfl) _
  | attachClearingEnd => cases h; exact KeepsMap.of_dev (Part.clearingEnd_dev _ _ _)
  | sweepTimerExpiry => cases h; exact KeepsMap.of_dev (Part.sweepTimerExpired_dev _)
  | dueArrival => cases h; exact KeepsMap.of_dev (dueArrival_onlyCard _ _).dev
  | windowExpiry | gapExpiry => cases h; exact KeepsMap.of_dev (timedCommand_onlyCard _ _ _).dev
  | arbiterChoice => cases h; exact KeepsMap.of_dev (Part.arbiterChoice_dev _ _)
  | guardExpiry d =>
    cases h
    dsimp only
    split
    · exact KeepsMap.putDevice _ d _
    · exact KeepsMap.refl _
  | driveStartCondition => cases h; exact KeepsMap.of_dev (Part.driveStart_dev _ _ _)
  | startCondition p => cases h; exact unlessReset_keepsMap (fun u => startSeen_keepsMap u p) _
  | stopCondition p => cases h; exact unlessReset_keepsMap (f := fun u => u.stopSeen p) (fun _ => KeepsMap.of_dev rfl) _
  | busFreeTime high =>
    cases h
    exact unlessReset_keepsMap (fun u => KeepsMap.of_dev (u.busFree_dev high.port high.interval)) _
  | busLineFall p => cases h; exact unlessReset_keepsMap (f := fun u => u.lineFall p) (fun _ => KeepsMap.of_dev rfl) _
  | twoWireDone => cases h; exact twoDone_keepsMap _ _ _
  | addressNack => cases h; exact refusedByte_keepsMap _ _ _ _ _ _ _
  | dataNack => cases h; exact dataNack_keepsMap _ _ _ _ _ _
  | checkMismatch => cases h; exact checkMismatch_keepsMap _ _ _ _ _ _
  | arbLost => cases h; exact arbLost_keepsMap _ _ _ _ _
  | busError => cases h; exact busError_keepsMap _ _ _ _ _
  | stretchTimeout => cases h; exact KeepsMap.of_dev (Part.stretchTimeout_dev _ _ _ _ _ _)
  | recoveryDone => cases h; exact recoveryDone_keepsMap _ _ _
  | portStuck => cases h; exact portStuck_keepsMap _ _ _ _
  | holdTimerExpiry => cases h; exact KeepsMap.of_dev (Part.holdExpired_dev _ _ _)
  | selectAssert => cases h; exact KeepsMap.of_dev (Part.selectAssert_dev _ _ _ _)
  | selectLeadEnd => cases h; exact KeepsMap.of_dev (Part.selectLeadEnd_dev _ _ _)
  | fourWireDone => cases h; exact fourDone_keepsMap _ _ _
  | fourWireCheckMismatch => cases h; exact fourCheckMismatch_keepsMap _ _ _ _ _ _
  | senseAssertion => cases h; exact senseAsserted_keepsMap _ _ _ _ _
  | senseDeassertion => cases h; exact KeepsMap.of_dev (Part.senseDeasserted_dev _ _)
  | senseHoldExpiry => cases h; exact KeepsMap.of_dev (Part.senseHoldExpired_dev _ _ _)
  | append | holdoffExpiry =>
    cases h
    dsimp only
    split <;> exact KeepsMap.of_dev rfl
  | refLost => cases h; exact KeepsMap.of_dev (Part.refLost_dev _)
  | refBack => cases h; exact KeepsMap.of_dev (Part.refBack_dev _)
  | resetNRelease => cases h; exact KeepsMap.of_dev (Part.releaseReset_dev _)
  | referenceEdge spacing => cases h; exact unlessReset_keepsMap (fun u => KeepsMap.of_dev (u.referenceEdge_dev spacing)) _
  | referenceGap => cases h; exact unlessReset_keepsMap (fun u => KeepsMap.of_dev u.referenceGap_dev) _

/-- Settles O57: the map changes by an entry that another standby and room allow, by a removal, and by a reset that empties it. -/
theorem stepKeepsSubstitutionMapLegal : Obligations.StepKeepsSubstitutionMapLegal := by
  intro s t hs h
  rw [Part.substLegal_iff] at hs ⊢
  unfold step at h
  split at h
  · cases h
    exact hs
  · rename_i i rest _
    exact exec_keepsMap (i := i) (s := { s with pending := rest }) h hs

end Sys2Proof.Machine
end

section
/-! Resolution step by step (R73), the expiry of a guard (R82, R86), and the invariants right after reset. -/

namespace Sys2Proof.Machine

/-! ### Resolution (R73) -/

section
variable {s : Part} {d : DevIx}

/-- The answer of step 5 for the device `x` that serves (R73). -/
def Part.answerOn (s : Part) (x : DevIx) (substituted : Bool) : Except ResultCode Resolution :=
  if s.portFenced (readEntry s.rep.mem x).portIx then .error .portFenced
  else .ok { device := x, port := (readEntry s.rep.mem x).portIx, entry := readEntry s.rep.mem x, substituted := substituted }

theorem Part.resolve_unusable (h : (readEntry s.rep.mem d).usable = false) : s.resolve d = .error .deviceInvalid := by
  simp [Part.resolve, h]

theorem Part.resolve_served (h : (readEntry s.rep.mem d).usable = true) {x : DevIx} {substituted : Bool}
    (hserving : s.serving d = some (x, substituted)) : s.resolve d = s.answerOn x substituted := by
  simp [Part.resolve, h, hserving, Part.answerOn]

theorem Part.resolve_unserved (h : (readEntry s.rep.mem d).usable = true) (hserving : s.serving d = none) :
    s.resolve d = .error .deviceFenced := by
  simp [Part.resolve, h, hserving]

theorem Part.usableStandby_iff (s : Part) (b : DevIx) :
    s.usableStandby b = true ↔
      (readEntry s.rep.mem b).present = true ∧ (readEntry s.rep.mem b).legal = true ∧ (s.dev.get b).health ≠ .fenced := by
  simp [Part.usableStandby, DeviceEntry.usable, DeviceUnit.isFenced, and_assoc]

/-- A device that is not fenced serves for itself. -/
theorem Part.serving_unfenced (h : (s.dev.get d).health ≠ .fenced) : s.serving d = some (d, false) := by
  simp [Part.serving, DeviceUnit.isFenced, h]

/-- A usable standby serves for a fenced device. -/
theorem Part.serving_standby (h : (s.dev.get d).health = .fenced) {b : DevIx} (hpair : s.dev.standbyOf d = some b)
    (hb : s.usableStandby b = true) : s.serving d = some (b, true) := by
  simp [Part.serving, DeviceUnit.isFenced, h, hpair, hb]

/-- Without a usable standby none serves for a fenced device. -/
theorem Part.serving_none (h : (s.dev.get d).health = .fenced) (hb : ∀ b, s.dev.standbyOf d = some b → s.usableStandby b = false) :
    s.serving d = none := by
  cases hpair : s.dev.standbyOf d with
  | none => simp [Part.serving, DeviceUnit.isFenced, h, hpair]
  | some b => simp [Part.serving, DeviceUnit.isFenced, h, hpair, hb b hpair]

end

/-- Settles O28: the device's entry, its fence, its standby and the port's fence, each where those before it have not decided. -/
theorem resolutionSteps : Obligations.ResolutionSteps := by
  intro s d p entry answer
  refine ⟨Part.resolve_unusable, fun hpresent hlegal => ?_⟩
  have husable : (entry d).usable = true := by simp [DeviceEntry.usable, hpresent, hlegal]
  have hanswer : ∀ x b, p.serving d = some (x, b) → p.resolve d = answer x b := fun _ _ => Part.resolve_served husable
  refine ⟨fun hhealth => hanswer d false (Part.serving_unfenced hhealth), fun hfenced => ⟨?_, fun hnone => ?_⟩⟩
  · intro b hpair hbPresent hbLegal hbHealth
    exact hanswer b true (Part.serving_standby hfenced hpair ((p.usableStandby_iff b).mpr ⟨hbPresent, hbLegal, hbHealth⟩))
  · refine Part.resolve_unserved husable (Part.serving_none hfenced (fun b hpair => Bool.eq_false_iff.mpr (fun hb => ?_)))
    obtain ⟨hbPresent, hbLegal, hbHealth⟩ := (p.usableStandby_iff b).mp hb
    rcases hnone b hpair with h | h | h
    · exact absurd (hbPresent.symm.trans h) (by decide)
    · exact absurd (hbLegal.symm.trans h) (by decide)
    · exact hbHealth h

/-! ### The expiry of a guard (R82, R86) -/

theorem Word.byte_three_ofBytes (b0 b1 b2 b3 : Byte) : (Word.ofBytes b0 b1 b2 b3).byte 3 = b3 := by
  apply BitVec.eq_of_getLsbD_eq
  intro i hi
  have hin : 24 + i - 8 - 8 - 8 = i := by omega
  rw [Word.byte, Word.ofBytes, BitVec.getLsbD_extractLsb', BitVec.getLsbD_append, BitVec.getLsbD_append,
    BitVec.getLsbD_append, if_neg (by omega), if_neg (by omega), if_neg (by omega)]
  simp [hi, hin]

/-- A guard that ends changes the status word (R86). -/
theorem DeviceUnit.statusWord_ne_of_guard {u u' : DeviceUnit} {d : DevIx} (h : (u.get d).guard.isSome = true)
    (h' : (u'.get d).guard = none) : u'.statusWord d ≠ u.statusWord d := by
  intro hword
  have hbyte := congrArg (fun w => Word.byte w 3) hword
  simp only [DeviceUnit.statusWord, Word.byte_three_ofBytes, h, h'] at hbyte
  exact absurd hbyte (by decide)

/-- Settles O35: the guard is due, and its end changes the status word, which is written. -/
theorem guardExpiryClearsGuard : Obligations.GuardExpiryClearsGuard := by
  intro s d e hguard hdue u
  have hexpired : s.part.expired (s.part.dev.get d).guard = true := s.part.expired_some hguard hdue
  have hcleared : (u.get d).guard = none := by
    rw [DeviceUnit.get_put, if_pos rfl]
  have hchanged : u.statusWord d ≠ s.part.dev.statusWord d :=
    DeviceUnit.statusWord_ne_of_guard (by rw [hguard]; rfl) hcleared
  have hexec : exec (.guardExpiry d) s =
      .next { s with part := if s.part.expired (s.part.dev.get d).guard then s.part.guardExpired d else s.part } := rfl
  rw [hexec, if_pos hexpired, Part.guardExpired, Part.changeDevice_eq, Memory.withStatus, if_neg hchanged]

/-! ### Right after reset -/

/-- Settles O54: after reset the memory, the queue and the map are empty, every count is 0, and no card holds a context. -/
theorem resetMeetsInvariants : Obligations.ResetMeetsInvariants := by
  unfold Obligations.ResetMeetsInvariants
  intro p
  have hctx : ∀ n : CardIx, p.ctx n = none := fun n => Vector.getElem_replicate _
  have hheld : p.heldContexts = 0 := by
    have hlist : p.ctxs.toList = List.replicate Config.cards none := Vector.toList_replicate
    rw [Part.heldContexts, hlist, List.countP_replicate]
    rfl
  have hcounts : p.countsBounded := by
    refine ⟨fun d => ?_, Nat.zero_le _⟩
    have hdev : p.dev.get d = DeviceRecord.reset := Vector.getElem_replicate _
    rw [hdev]
    exact Nat.zero_le _
  refine ⟨reset_memoryCanonical, ⟨⟨Nat.zero_le _, Nat.zero_le _⟩, hcounts, fun n c hc => ?_, ?_⟩, ?_,
    ⟨fun _ => rfl, fun _ => ⟨rfl, rfl⟩⟩, (Part.fencedListsEmpty_iff p).mpr (fun n => Part.offFenced_free (hctx n))⟩
  · rw [hctx] at hc
    cases hc
  · unfold Part.contextsBounded
    omega
  · exact legalMap_nil

end Sys2Proof.Machine
end

section
/-! Sample slots: the words and bytes that a slot holds once it is written (R128, R134, Table 12-12). -/

namespace Sys2Proof.Machine

/-! ### Words read back -/

theorem Memory.get_eq_byte (m : Memory) (a : Nat) {i : Nat} (hi : i < 4) : m.get (a + i) = (m.word a).byte i := by
  interval_cases i
  · exact m.get_eq_byte_zero a
  · exact m.get_succ_eq_byte_one a
  · exact (Word.byte_two_ofBytes _ _ _ _).symm
  · exact (Word.byte_three_ofBytes _ _ _ _).symm

/-- A word written with the value it holds changes nothing. -/
theorem Memory.setWord_same {m : Memory} (hm : m.wf = true) {a : Nat} {w : Word} (h : m.word a = w) : m.setWord a w = m := by
  refine Memory.ext_get (Memory.wf_setWord hm _ _) hm (fun b => ?_)
  rw [Memory.get_setWord hm]
  split
  · obtain ⟨k, rfl, hk⟩ : ∃ k, b = a + k ∧ k < 4 := ⟨b - a, by omega, by omega⟩
    rw [← h, m.get_eq_byte a hk, Nat.add_sub_cancel_left]
  · rfl

theorem Memory.word_setWords (ws : List Word) : ∀ {m : Memory} (a : Nat) {i : Nat} (hi : i < ws.length), m.wf = true →
    (m.setWords a ws).word (a + 4 * i) = ws[i] := by
  induction ws with
  | nil => exact fun _ _ hi => absurd hi (Nat.not_lt_zero _)
  | cons w ws ih =>
    intro m a i hi hm
    have hw := Memory.wf_setWord hm a w
    cases i with
    | zero =>
      exact (Memory.word_congr (fun b _ hb => Memory.get_setWords_outside ws (a + 4) hw (by omega))).trans (Memory.word_setWord hm a w)
    | succ i =>
      have haddr : a + 4 * (i + 1) = a + 4 + 4 * i := by omega
      rw [haddr]
      exact ih (a + 4) (Nat.lt_of_succ_lt_succ hi) hw

/-- A slot or record written holds its words, in whatever order they were written (R134, R146). -/
theorem Memory.word_setClosed {m : Memory} (hm : m.wf = true) (a : Nat) {ws : List Word} {i : Nat} (hi : i < ws.length) :
    (m.setClosed a ws).word (a + 4 * i) = ws[i] := by
  have hlast := Memory.wf_setWord hm (a + 4 * (ws.length - 1)) (ws.getLastD 0#32)
  have hbetween := Memory.wf_setWords ws.tail.dropLast (a + 4) hlast
  have hlength : ws.tail.dropLast.length = ws.length - 1 - 1 := by simp
  unfold Memory.setClosed
  simp only
  by_cases hfirst : i = 0
  · have haddr : a + 4 * i = a := by omega
    subst hfirst
    rw [haddr, Memory.word_setWord hbetween, List.headD_eq_head?_getD, List.head?_eq_getElem?,
      List.getElem?_eq_getElem hi, Option.getD_some]
  · rw [Memory.word_setWord_outside hbetween _ (by omega)]
    by_cases hend : i = ws.length - 1
    · subst hend
      rw [Memory.word_congr (fun b _ _ => Memory.get_setWords_outside _ _ hlast (by omega)), Memory.word_setWord hm,
        List.getLastD_eq_getLast?, List.getLast?_eq_getElem?, List.getElem?_eq_getElem hi, Option.getD_some]
    · have haddr : a + 4 * i = a + 4 + 4 * (i - 1) := by omega
      rw [haddr, Memory.word_setWords _ _ (by omega) hlast, List.getElem_dropLast, List.getElem_tail]
      congr 1
      omega

/-! ### The bytes of a sample (Table 12-12) -/

/-- The bytes of a slot are those of its sample's words. -/
theorem Memory.get_slot {m : Memory} (hm : m.wf = true) (a : Nat) (p : Sample) {k : Nat} (hk : k < 32) :
    (m.setClosed a p.words).get (a + k) = (p.words.getD (k / 4) 0#32).byte (k % 4) := by
  have hlength : p.words.length = 8 := rfl
  have hi : k / 4 < p.words.length := by omega
  have haddr : a + k = a + 4 * (k / 4) + k % 4 := by omega
  rw [haddr, Memory.get_eq_byte _ _ (Nat.mod_lt _ (by omega)), Memory.word_setClosed hm a hi, List.getD_eq_getElem _ _ hi]

/-- The data bytes stand at offsets 11 to 28. -/
theorem Sample.words_data (p : Sample) {i : Nat} (hi : i < 18) : (p.words.getD ((11 + i) / 4) 0#32).byte ((11 + i) % 4) = p.dataByte i := by
  interval_cases i <;>
    simp [Sample.words, Word.byte_zero_ofBytes, Word.byte_one_ofBytes, Word.byte_two_ofBytes, Word.byte_three_ofBytes]

/-- A memory shows sample `p` in the slot at `a` (Table 12-12). -/
structure Memory.ShowsSample (m : Memory) (a : Nat) (p : Sample) : Prop where
  sequence : ∀ i, i < 2 →
    m.get (a + i) = p.sequence.extractLsb' (8 * i) 8 ∧ m.get (a + 30 + i) = p.sequence.extractLsb' (8 * i) 8
  card : m.get (a + 2) = byteOf p.card.val
  generation : m.get (a + 3) = p.generation
  start : m.word (a + 4) = p.start
  status : m.get (a + 8) = byteOf p.status.code
  readCount : m.get (a + 9) = byteOf p.readCount
  flags : m.get (a + 10) = p.flagsByte
  data : ∀ i, i < 18 → m.get (a + 11 + i) = p.dataByte i
  spare : m.get (a + 29) = 0x00#8

/-- A slot that has been written shows its sample, in any memory that agrees on the slot. -/
theorem Memory.showsSample {m m' : Memory} (hm : m.wf = true) {a : Nat} {p : Sample}
    (hsame : ∀ x, a ≤ x → x < a + 32 → m'.get x = (m.setClosed a p.words).get x) : m'.ShowsSample a p := by
  have hbyte : ∀ k, k < 32 → m'.get (a + k) = (p.words.getD (k / 4) 0#32).byte (k % 4) := fun k hk =>
    (hsame (a + k) (by omega) (by omega)).trans (Memory.get_slot hm a p hk)
  exact {
    sequence := fun i hi => by
      rw [Nat.add_assoc, hbyte i (by omega), hbyte (30 + i) (by omega)]
      interval_cases i <;>
        simp [Sample.words, Word.byte_zero_ofBytes, Word.byte_one_ofBytes, Word.byte_two_ofBytes, Word.byte_three_ofBytes]
    card := (hbyte 2 (by omega)).trans (Word.byte_two_ofBytes _ _ _ _)
    generation := (hbyte 3 (by omega)).trans (Word.byte_three_ofBytes _ _ _ _)
    start := (Memory.word_congr (fun b h1 h2 => hsame b (by omega) (by omega))).trans
      (Memory.word_setClosed hm a (ws := p.words) (i := 1) (Nat.le_add_left 2 6))
    status := (hbyte 8 (by omega)).trans (Word.byte_zero_ofBytes _ _ _ _)
    readCount := (hbyte 9 (by omega)).trans (Word.byte_one_ofBytes _ _ _ _)
    flags := (hbyte 10 (by omega)).trans (Word.byte_two_ofBytes _ _ _ _)
    data := fun i hi => by rw [Nat.add_assoc, hbyte (11 + i) (by omega), Sample.words_data p hi]
    spare := (hbyte 29 (by omega)).trans (Word.byte_one_ofBytes _ _ _ _) }

end Sys2Proof.Machine
end

section
/-! DONE on a four-wire port, and the bank of a card at its success (R57, R76, R117, R118, R127 to R135). -/

namespace Sys2Proof.Machine

/-! ### The port at the end of an attempt (R117, R118) -/

/-- An attempt on a four-wire port receives as many data bytes as its READ legs have. -/
theorem readCount_fourSlots (c : Context) (e : DeviceEntry) : readCount (c.fourSlots e) = c.readTotal :=
  readCount_flatMap_legs (fun x => readCount_dataSlots c e.check x.1 x.2) c.legs 0

/-- The traffic of a four-wire attempt that has been carried out whole. -/
def fourDoneWire (a : Attempt) (c : Context) (data : List Byte) : List BusItem :=
  fourTrace a.entry (c.fourSlots a.entry) (crossed (c.fourSlots a.entry) data []) ++ closingItems a.entry

/-- The port that DONE leaves: its select deasserted now, then IDLE or YIELDED (R117, R118). -/
def Part.portAfterDone (s : Part) (q : FourIx) (wire : List BusItem) : FourWire :=
  s.fourIdle { s.fourAt q with lastDeselect := s.now, wire := wire }

theorem RunState.live_iff (r : RunState) : r.live = true ↔ r = .running ∨ r = .quiescing ∨ r = .stopped := by
  cases r <;> simp [RunState.live]

theorem Part.portAfterDone_idle {s : Part} {q : FourIx} (h : (s.fourAt q).sense = false ∨ s.run.state.live = false)
    (wire : List BusItem) : s.portAfterDone q wire = (s.fourAt q).afterDeselect s.time.count wire := by
  rw [Part.portAfterDone, Part.fourIdle, if_neg (by rcases h with h | h <;> simp [h])]
  rfl

theorem Part.portAfterDone_yielded {s : Part} {q : FourIx} {h : Header} (hsense : (s.fourAt q).sense = true)
    (hlive : s.run.state.live = true) (hh : s.intake.header = some h) (wire : List BusItem) :
    s.portAfterDone q wire =
      { s.fourAt q with
        state := .yielded, lastDeselect := s.time.count, wire := wire
        holdTimer := some (s.time.count + BitVec.ofNat 32 (1000 * h.holdLimit)) } := by
  rw [Part.portAfterDone, Part.fourIdle, if_pos (by simp [hsense, hlive]), Part.holdExpiry, hh]
  rfl

/-- DONE ends the attempt on a port that has deasserted its select (R117). -/
theorem Part.fourDone_eq {s : Part} {q : FourIx} {a : Attempt} {c : Context} {data : List Byte}
    (hstate : (s.fourAt q).state = .active .data a) (hctx : s.ctx a.card = some c) (hdata : data.length = c.readTotal) :
    s.fourDone q data =
      (s.setFour q (s.portAfterDone q (fourDoneWire a c data))).attemptEnded (fourPort q) a (.done data) s.now BusPoint.absent := by
  have hcourse : s.fourCourse q = some { attempt := a, ctx := c, slots := c.fourSlots a.entry } := by
    simp [Part.fourCourse, hstate, hctx]
  unfold Part.fourDone Part.fourFinished
  rw [hcourse]
  simp only
  rw [if_pos (hdata.trans (readCount_fourSlots c a.entry).symm)]
  rfl

theorem exec_fourWireDone (q : FourIx) (data : List Byte) (s : State) :
    exec (.fourWireDone q data) s = .next { s with part := s.part.fourDone q data } := rfl

/-! ### The Result Unit's answer (R130 to R133) -/

/-- How many samples the bank holds that the host has not taken (R130). -/
def Part.bankFill (s : Part) (n : CardIx) (c : Context) : Nat := (c.made - takenCounter s.rep.mem n).toNat

/-- The sample is lost: the bank is full, and KEEP_NEWEST is clear (R132). -/
abbrev Context.dropsAt (c : Context) (fill : Nat) : Prop := fill = c.bankCount ∧ c.flags.keepNewest = false

/-- The counters of the bank, and the bank position, after a sample at the fill given (R131, R132). -/
def Context.sampledAt (c : Context) (fill : Nat) : Context :=
  { c with
    made := if c.dropsAt fill then c.made else c.made + 1#16
    lost := if fill < c.bankCount then c.lost else c.lost.saturatingAdd 1
    position := if c.dropsAt fill then c.position else if c.position + 1 < c.bankCount then c.position + 1 else 0 }

theorem Context.sampledAt_dropped {c : Context} {fill : Nat} (h : c.dropsAt fill) :
    c.sampledAt fill = { c with lost := c.lost.saturatingAdd 1 } := by
  rw [Context.sampledAt, if_pos h, if_pos h, if_neg (Nat.not_lt.mpr (Nat.le_of_eq h.1.symm))]

theorem Context.sampledAt_written {c : Context} {fill : Nat} (h : ¬c.dropsAt fill) :
    c.sampledAt fill =
      { c with
        made := c.made + 1#16, lost := if fill < c.bankCount then c.lost else c.lost.saturatingAdd 1
        position := if c.position + 1 < c.bankCount then c.position + 1 else 0 } := by
  rw [Context.sampledAt, if_neg h, if_neg h]

/-- The memory with the sample in its slot and the word of made and lost written. -/
def Memory.withSample (m : Memory) (n : CardIx) (c : Context) (fill : Nat) (p : Sample) : Memory :=
  (if c.dropsAt fill then m else m.setClosed (Addr.slot (c.bankFirst + c.position)) p.words).setWord (Addr.progress n + 4)
    (Word.ofHalves (c.sampledAt fill).made (c.sampledAt fill).lost)

/-- The Attention Unit after a sample: told of one that is written, under NOTIFY (R135, R153). -/
def Part.toldOf (s : Part) (c : Context) (fill : Nat) (h : Header) : Reports :=
  if c.flags.notify = true ∧ ¬c.dropsAt fill then s.rep.sampleTold h.threshold h.holdoff s.time.count else s.rep

/-- Telling the Attention Unit does not read the memory. -/
theorem Reports.sampleTold_withMem (r : Reports) (m : Memory) (threshold holdoff : Nat) (now : Time) :
    ({ r with mem := m } : Reports).sampleTold threshold holdoff now = { r.sampleTold threshold holdoff now with mem := m } := by
  unfold Reports.sampleTold Reports.latch
  simp only
  split
  · rfl
  · split <;> rfl

/-- A taken counter that is valid: the sample is written, overwrites the oldest, or is lost (R130 to R132). -/
theorem Part.resultSample_valid {s : Part} {n : CardIx} {c : Context} {la : LastAttempt} {h : Header} (hheader : s.intake.header = some h)
    (hbank : c.bankCount ≠ 0) (hfill : s.bankFill n c ≤ c.bankCount) (data : List Byte) :
    s.resultSample n { c with last := some la } .ok data =
      { part := { s with rep := { s.toldOf c (s.bankFill n c) h with
          mem := s.rep.mem.withSample n c (s.bankFill n c) (c.sample n la .ok data) } }
        ctx := { c.sampledAt (s.bankFill n c) with last := some la }, invalid := false } := by
  have hnot : ¬ c.bankCount < (c.made - takenCounter s.rep.mem n).toNat := Nat.not_lt.mpr hfill
  unfold Part.resultSample
  simp only [hbank, hnot, if_false]
  by_cases hdrops : c.dropsAt (s.bankFill n c)
  · have hfull : (c.made - takenCounter s.rep.mem n).toNat = c.bankCount := hdrops.1
    have hcleared : c.flags.keepNewest = false := hdrops.2
    rw [if_pos (by simp [hfull, hcleared]), Part.toldOf, if_neg (fun h => h.2 hdrops), Memory.withSample, if_pos hdrops,
      Context.sampledAt_dropped hdrops]
    rfl
  · have hwritten : ¬ ((c.made - takenCounter s.rep.mem n).toNat = c.bankCount ∧ (!c.flags.keepNewest) = true) := by
      simpa [Context.dropsAt, Part.bankFill] using hdrops
    have hlost : (if ((c.made - takenCounter s.rep.mem n).toNat == c.bankCount) = true then c.lost.saturatingAdd 1 else c.lost) =
        if s.bankFill n c < c.bankCount then c.lost else c.lost.saturatingAdd 1 := by
      by_cases hroom : s.bankFill n c < c.bankCount
      · have hne : (c.made - takenCounter s.rep.mem n).toNat ≠ c.bankCount := Nat.ne_of_lt hroom
        rw [if_pos hroom, if_neg (by simpa using hne)]
      · have heq : (c.made - takenCounter s.rep.mem n).toNat = c.bankCount := Nat.le_antisymm hfill (Nat.not_lt.mp hroom)
        rw [if_neg hroom, if_pos (by simpa using heq)]
    rw [if_neg hwritten, Memory.withSample, if_neg hdrops, Context.sampledAt_written hdrops]
    simp only [Part.writeSample, hlost, Part.toldOf, hdrops, not_false_eq_true, and_true, Part.sampleTold, Part.writeMadeLost,
      Part.writeProgressWord, Part.report, hheader]
    by_cases hnotify : c.flags.notify = true
    · simp only [hnotify, if_true]
      rw [Reports.sampleTold_withMem]
      rfl
    · simp only [hnotify]
      rfl

/-- A taken counter that is found invalid: a record is asked for, and nothing is written (R133). -/
theorem Part.resultSample_invalid {s : Part} {n : CardIx} {c : Context} {la : LastAttempt} (hbank : c.bankCount ≠ 0)
    (hfill : c.bankCount < s.bankFill n c) (data : List Byte) :
    s.resultSample n { c with last := some la } .ok data =
      { part := s.request (takenInvalidRecord s.now n c la), ctx := { c with last := some la }, invalid := true } := by
  have hover : c.bankCount < (c.made - takenCounter s.rep.mem n).toNat := hfill
  unfold Part.resultSample
  simp only [hbank, hover, if_false, if_true]
  rfl

end Sys2Proof.Machine
end

section
/-! DONE on a four-wire port for a card with a bank: the success counted, the decision on the card, and the memory (R57, R130 to R137). -/

namespace Sys2Proof.Machine

/-! ### The memory after the bank and the counters -/

theorem Addr.progress_lt_slot (n : CardIx) (k : Nat) : Addr.progress n + 32 ≤ Addr.slot k := by
  have hn : n.val < 96 := n.isLt
  rw [Addr.progress_eq]
  simp only [Addr.slot]
  omega

section
variable {m : Memory} (hm : m.wf = true) (n : CardIx) (c : Context) (fill : Nat) (p : Sample)
include hm

theorem Memory.wf_slotIf (k : Nat) : (if c.dropsAt fill then m else m.setClosed (Addr.slot k) p.words).wf = true := by
  split
  · exact hm
  · exact Memory.wf_setClosed hm _ _

theorem Memory.wf_withSample : (m.withSample n c fill p).wf = true := Memory.wf_setWord (Memory.wf_slotIf hm c fill p _) _ _

theorem Memory.word_withSample :
    (m.withSample n c fill p).word (Addr.progress n + 4) = Word.ofHalves (c.sampledAt fill).made (c.sampledAt fill).lost :=
  Memory.word_setWord (Memory.wf_slotIf hm c fill p _) _ _

/-- A byte outside the slot, if it is written, and outside the word of made and lost stands. -/
theorem Memory.get_withSample {x : Nat}
    (hslot : ¬(¬c.dropsAt fill ∧ Addr.slot (c.bankFirst + c.position) ≤ x ∧ x < Addr.slot (c.bankFirst + c.position) + 32))
    (hword : ¬(Addr.progress n + 4 ≤ x ∧ x < Addr.progress n + 8)) : (m.withSample n c fill p).get x = m.get x := by
  refine (Memory.get_setWord_outside (Memory.wf_slotIf hm c fill p _) _ (by omega)).trans ?_
  split
  · rfl
  · rename_i hwritten
    have hout : ¬(Addr.slot (c.bankFirst + c.position) ≤ x ∧ x < Addr.slot (c.bankFirst + c.position) + 32) :=
      fun h => hslot ⟨hwritten, h⟩
    have hlength : p.words.length = 8 := rfl
    exact Memory.get_setClosed_outside hm (by omega) (by omega)

/-- The slot of a sample that is written. -/
theorem Memory.get_withSample_slot (hwritten : ¬c.dropsAt fill) {x : Nat} (hx : Addr.slot (c.bankFirst + c.position) ≤ x) :
    (m.withSample n c fill p).get x = (m.setClosed (Addr.slot (c.bankFirst + c.position)) p.words).get x := by
  have hbelow := Addr.progress_lt_slot n (c.bankFirst + c.position)
  rw [Memory.withSample, if_neg hwritten, Memory.get_setWord_outside (Memory.wf_setClosed hm _ _) _ (by omega)]

end

/-- The counters of a success written, with the progress word of a live card (R135, step 4). -/
def Memory.withCounters (m : Memory) (n : CardIx) (c : Context) (la : LastAttempt) : Memory :=
  (m.setWord (Addr.progress n) (c.succeeded la).liveWord).setList
    (counterWords n (c.run + 1#32)
      (Word.ofHalves (c.retriesTotal.saturatingAdd c.retryTally) (c.yieldsTotal.saturatingAdd c.yieldTally)) la.start la.stop)

theorem Memory.wf_withCounters {m : Memory} (hm : m.wf = true) (n : CardIx) (c : Context) (la : LastAttempt) :
    (m.withCounters n c la).wf = true := Memory.wf_setList _ (Memory.wf_setWord hm _ _)

/-- What the progress half shows after the counters, whatever progress word is written last. -/
theorem Memory.showsEnd_withCounters {m : Memory} (hm : m.wf = true) (n : CardIx) (c : Context) (la : LastAttempt) (w : Word) :
    Memory.ShowsEnd m ((m.withCounters n c la).setWord (Addr.progress n) w) n w (c.run + 1#32)
      (Word.ofHalves (c.retriesTotal.saturatingAdd c.retryTally) (c.yieldsTotal.saturatingAdd c.yieldTally)) la.start la.stop :=
  Memory.showsEnd_counters hm n _ w _ _ _ _

/-- A live card's progress word is written before its counters, and stands. -/
theorem Memory.withCounters_live {m : Memory} (hm : m.wf = true) (n : CardIx) (c : Context) (la : LastAttempt) :
    (m.withCounters n c la).setWord (Addr.progress n) (c.succeeded la).liveWord = m.withCounters n c la := by
  refine Memory.setWord_same (Memory.wf_withCounters hm n c la) ?_
  have hlive := Memory.wf_setWord hm (Addr.progress n) (c.succeeded la).liveWord
  refine (Memory.word_congr (fun b h1 h2 => Memory.get_setList_outside ?_ hlive)).trans (Memory.word_setWord hm _ _)
  simp only [counterWords, List.forall_mem_cons, List.not_mem_nil, false_implies, implies_true, and_true]
  omega

/-- The words that a DONE shows, over the memory before it: the counters written, the instances missed and failed as they stood, and
the device's status word. -/
def Memory.ShowsDone (m0 m : Memory) (old new : DeviceUnit) (d : DevIx) (n : CardIx) (run totals start stop : Word) : Prop :=
  let half := Addr.progress n
  m.word (half + 8) = run ∧ m.word (half + 12) = m0.word (half + 12) ∧ m.word (half + 16) = m0.word (half + 16) ∧
    m.word (half + 20) = totals ∧ m.word (half + 24) = start ∧ m.word (half + 28) = stop ∧
    m.word (Addr.status d) = (if new.statusWord d = old.statusWord d then m0.word (Addr.status d) else new.statusWord d)

/-- Before the counters the memory differs from the one with the status word in slots and in the word of made and lost alone. -/
theorem Memory.showsDone_afterBank {m0 mb m' m : Memory} (hm : m0.wf = true) {old new : DeviceUnit} {d : DevIx} {n : CardIx}
    {w run totals start stop : Word}
    (hbank : ∀ x, x < 0x4000 → ¬(Addr.progress n + 4 ≤ x ∧ x < Addr.progress n + 8) → mb.get x = (m0.withStatus old new d).get x)
    (hshows : Memory.ShowsEnd mb m' n w run totals start stop) (hsame : ∀ x, Addr.status d ≤ x → m.get x = m'.get x) :
    Memory.ShowsDone m0 m old new d n run totals start stop := by
  let half := Addr.progress n
  have hbelow : Addr.status d + 4 ≤ half := Addr.status_lt_progress d n
  have habove : half + 32 ≤ 0x4000 := Addr.progress_lt_slot n 0
  have hread : ∀ k, m.word (half + k) = m'.word (half + k) := fun k => Memory.word_congr (fun b h1 _ => hsame b (by omega))
  have hkept : ∀ k, k = 12 ∨ k = 16 → m.word (half + k) = m0.word (half + k) := fun k hk =>
    (hread k).trans ((hshows.kept k (by omega)).trans (Memory.word_congr (fun b h1 h2 =>
      (hbank b (by omega) (by omega)).trans (Memory.get_withStatus hm _ _ (by omega)))))
  refine ⟨(hread 8).trans hshows.run, hkept 12 (by omega), hkept 16 (by omega), (hread 20).trans hshows.totals,
    (hread 24).trans hshows.start, (hread 28).trans hshows.stop, ?_⟩
  refine (Memory.word_congr (fun b h1 h2 => ?_)).trans (Memory.word_withStatus hm _ _ _)
  exact (hsame b h1).trans ((hshows.outside b (by omega)).trans (hbank b (by omega) (by omega)))

/-! ### The decision on the card (R57) -/

/-- An EVERY card without debt and with its count not used up goes on with its next arrival (R57, decision 5). -/
theorem Part.afterEnd_next {c : Context} (hend : c.pendingEnd = .none) (hkind : c.kind = .every) (hused : c.countUsed = false)
    (hdebt : c.debt = 0) (s : Part) (n : CardIx) (f : Fresh) : s.afterEnd n c .ok false f = s.nextInstance n c f := by
  unfold Part.afterEnd
  simp [hend, PendingEnd.asEnd, hkind, hused, hdebt]

/-- A taken counter found invalid fails the card (R133). -/
theorem Part.afterEnd_invalid {c : Context} (hend : c.pendingEnd = .none) (s : Part) (n : CardIx) (f : Fresh) :
    s.afterEnd n c .ok true f = s.endCardWork n c .failed .takenInvalid f := by
  unfold Part.afterEnd
  simp [hend, PendingEnd.asEnd]

/-- The context that goes on with its next arrival (R57, decision 5). -/
def Context.next (c : Context) : Context := { c.serve c.j with phase := .sleeping }

/-- Its work rests until that arrival is due. -/
theorem Part.finish_nextInstance {s : Part} {n : CardIx} {c : Context}
    (hdue : c.armed = true → Time.atOrAfter s.time.count c.nextArrival = false)
    (f : Fresh) : Part.finish .plain n (s.nextInstance n c f) = s.setCtx n (some c.next) := by
  refine Part.finish_settled (s := s.setCtx n (some c.next)) (Part.setCtx_ctx_self _ _ _) (Part.nextEvent_eq_none (fun e _ => ?_))
  by_cases he : e = .arrival
  · subst he
    unfold Part.eventDue Context.armedAt
    simp only
    split
    · rename_i h
      exact hdue h.2.1
    · rfl
  · rw [Part.eventDue, Context.armedAt_sleeping rfl he]
    rfl

/-- A success after which an EVERY card goes on leaves its work resting. -/
theorem Part.afterEnd_goesOn {s : Part} {n : CardIx} {c : Context} (hrun : s.run.state = .running) (hend : c.pendingEnd = .none)
    (hkind : c.kind = .every) (hused : c.countUsed = false) (hdebt : c.debt = 0)
    (hdue : c.armed = true → Time.atOrAfter s.time.count c.nextArrival = false) (f : Fresh) :
    (Part.finish .plain n (s.afterEnd n c .ok false f)).tryStop = s.setCtx n (some c.next) := by
  rw [Part.afterEnd_next hend hkind hused hdebt, Part.finish_nextInstance hdue]
  exact Part.tryStop_of_running hrun

/-! ### DONE as a whole -/

/-- A device that is not fenced is HEALTHY with count 0 after a success, and without SETTING no guard is set (R76, R81). -/
theorem DeviceRecord.succeeded_unguarded {r : DeviceRecord} {setting : Bool} {guardTime : Nat} (hhealth : r.health ≠ .fenced)
    (hguard : setting = false ∨ guardTime = 0) (stop : Time) :
    r.succeeded setting guardTime stop = { r with health := .healthy, faults := 0 } := by
  have hnot : ¬(setting = true ∧ guardTime ≠ 0) := by
    rintro ⟨hset, hne⟩
    rcases hguard with h | h
    · rw [h] at hset
      cases hset
    · exact hne h
  rw [DeviceRecord.succeeded, if_neg hhealth, if_neg hhealth, if_neg hnot]

/-- The part with the select deasserted and the device told of the success, before the Result Unit's answer. -/
def Part.successTold (s : Part) (q : FourIx) (a : Attempt) (c : Context) (wire : List BusItem) : Part :=
  { s with
    rep := { s.rep with mem := s.rep.mem.withStatus s.dev (s.devAfterDone a c) a.device }
    dev := s.devAfterDone a c
    four := s.four.set q.val ((s.fourAt q).afterDeselect s.time.count wire) q.isLt }

/-- The reports after the counters of a success whose taken counter is invalid: its record is asked for (R133). -/
def Part.repInvalid (s : Part) (a : Attempt) (c : Context) (la : LastAttempt) : Reports :=
  { s.rep with
    mem := (s.rep.mem.withStatus s.dev (s.devAfterDone a c) a.device).withCounters a.card c la
    queue := s.rep.queue ++ [takenInvalidRecord s.time.count a.card c la] }

theorem Part.repInvalid_mem (s : Part) (a : Attempt) (c : Context) (la : LastAttempt) :
    (s.repInvalid a c la).mem = (s.rep.mem.withStatus s.dev (s.devAfterDone a c) a.device).withCounters a.card c la := by
  rw [Part.repInvalid]

/-- An end after them changes the memory, the done map and the cause alone. -/
theorem Part.endWord_repInvalid (s : Part) (a : Attempt) (c : Context) (la : LastAttempt) (n : CardIx) (w : Word) :
    (s.repInvalid a c la).endWord n w =
      { s.rep with
        mem := ((s.repInvalid a c la).endWord n w).mem, done := s.rep.done ||| (1#96 <<< n.val), cause := s.rep.cause ||| 0x01#8
        queue := s.rep.queue ++ [takenInvalidRecord s.time.count a.card c la] } := by
  rw [Reports.endWord_eq, Part.repInvalid]

theorem Part.endCard_repInvalid (s : Part) (a : Attempt) (c : Context) (la : LastAttempt) (u : DeviceUnit) (ports : Vector FourWire 2)
    (n : CardIx) (x : Context) (state : ProgressState) (result : ResultCode) :
    ({ s with rep := s.repInvalid a c la, dev := u, four := ports } : Part).endCard n x state result =
      { s with
        rep := { s.rep with
          mem := ((s.repInvalid a c la).endWord n (x.wordAs state result)).mem
          done := s.rep.done ||| (1#96 <<< n.val), cause := s.rep.cause ||| 0x01#8
          queue := s.rep.queue ++ [takenInvalidRecord s.time.count a.card c la] }
        ctxs := s.ctxs.set n.val none n.isLt, dev := u, four := ports } := by
  simp only [Part.endCard, Part.report, Part.setCtx]
  rw [Part.endWord_repInvalid]

/-- The status word that a success writes is not the taken counter's. -/
theorem Part.bankFill_successTold {s : Part} (hm : s.rep.mem.wf = true) (q : FourIx) (a : Attempt) (c : Context) (wire : List BusItem)
    (n : CardIx) : (s.successTold q a c wire).bankFill n c = s.bankFill n c := by
  have hd : a.device.val < 64 := a.device.isLt
  have hword : (s.rep.mem.withStatus s.dev (s.devAfterDone a c) a.device).word (Addr.card n + 4) = s.rep.mem.word (Addr.card n + 4) :=
    Memory.word_congr (fun b h1 _ => Memory.get_withStatus hm _ _ (by simp only [Addr.card, Addr.status] at *; omega))
  unfold Part.bankFill takenCounter
  rw [← hword]
  rfl

section
variable {s : Part} {q : FourIx} {a : Attempt} {start : Time} {c : Context} {data : List Byte}
  (hrun : s.run.state = .running) (hstate : (s.fourAt q).state = .active .data a) (hstart : a.start = some start)
  (hsense : (s.fourAt q).sense = false) (hctx : s.ctx a.card = some c) (hdata : data.length = c.readTotal)
include hstate hstart hsense hctx hdata

/-- DONE comes to the decision after the Result Unit's answer. -/
theorem Part.fourDone_answered {s2 : Part} {c2 : Context} {invalid : Bool}
    (hanswer : (s.successTold q a c (fourDoneWire a c data)).resultSample a.card { c with last := some (s.endedNow a start) } .ok data =
      { part := s2, ctx := { c2 with last := some (s.endedNow a start) }, invalid := invalid }) :
    let la := s.endedNow a start
    s.fourDone q data =
      (Part.finish .plain a.card
        ((s2.report (fun r => { r with mem := r.mem.withCounters a.card c2 la })).afterEnd a.card (c2.succeeded la) .ok invalid
          .none)).tryStop := by
  intro la
  have htold : (s.setFour q (s.portAfterDone q (fourDoneWire a c data))).deviceSucceeded a.device c.flags.setting a.entry.guardTime s.now =
      s.successTold q a c (fourDoneWire a c data) := by
    rw [Part.portAfterDone_idle (Or.inl hsense), Part.deviceSucceeded_eq, Part.changeDevice_eq]
    rfl
  have hlast : (s.setFour q (s.portAfterDone q (fourDoneWire a c data))).lastOf a s.now = la := s.lastOf_eq hstart
  have hctx' : (s.setFour q (s.portAfterDone q (fourDoneWire a c data))).ctx a.card = some c := hctx
  have hcounted : s2.writeCounters a.card (c2.succeeded la) false =
      s2.report (fun r => { r with mem := r.mem.withCounters a.card c2 la }) :=
    Part.writeCounters_success (la := la) rfl a.card
  rw [Part.fourDone_eq hstate hctx hdata, Part.attemptEnded_done hctx', htold, hlast, Part.endInstance, hanswer, ← hcounted]
  rfl

include hrun

/-- The card goes on: its sample is in the bank or lost, its counters are written, and it waits for its next arrival. -/
theorem Part.fourDone_goesOn {h : Header} (hm : s.rep.mem.wf = true) (hheader : s.intake.header = some h) (hkind : c.kind = .every)
    (hcount : c.count = 0) (hend : c.pendingEnd = .none) (hdebt : c.debt = 0) (hbank : c.bankCount ≠ 0)
    (hdue : c.armed = true → Time.atOrAfter s.time.count c.nextArrival = false) (hfill : s.bankFill a.card c ≤ c.bankCount) :
    let la := s.endedNow a start
    let fill := s.bankFill a.card c
    s.fourDone q data =
      { s with
        rep := { s.toldOf c fill h with
          mem := ((s.rep.mem.withStatus s.dev (s.devAfterDone a c) a.device).withSample a.card c fill
            (c.sample a.card la .ok data)).withCounters a.card (c.sampledAt fill) la }
        ctxs := s.ctxs.set a.card.val (some ((c.sampledAt fill).succeeded la).next) a.card.isLt
        dev := s.devAfterDone a c
        four := s.four.set q.val ((s.fourAt q).afterDeselect s.time.count (fourDoneWire a c data)) q.isLt } := by
  intro la fill
  have hsame := Part.bankFill_successTold hm q a c (fourDoneWire a c data) a.card
  have hanswer := Part.resultSample_valid (s := s.successTold q a c (fourDoneWire a c data)) (n := a.card) (la := la) hheader hbank
    (hsame.symm ▸ hfill) data
  rw [hsame] at hanswer
  have hused : ((c.sampledAt fill).succeeded la).countUsed = false :=
    Bool.eq_false_iff.mpr (fun hu => (Context.countUsed_iff.mp hu).1 hcount)
  have htold : (s.successTold q a c (fourDoneWire a c data)).toldOf c fill h =
      { s.toldOf c fill h with mem := s.rep.mem.withStatus s.dev (s.devAfterDone a c) a.device } := by
    unfold Part.toldOf
    split
    · exact Reports.sampleTold_withMem s.rep _ _ _ _
    · rfl
  rw [htold] at hanswer
  refine (Part.fourDone_answered hstate hstart hsense hctx hdata hanswer).trans
    ((Part.afterEnd_goesOn (c := (c.sampledAt fill).succeeded la) (by exact hrun) hend hkind hused hdebt (by exact hdue) _).trans ?_)
  simp only [Part.setCtx, Part.report, Part.successTold]
  rfl

/-- The card fails with TAKEN_INVALID (R133). -/
theorem Part.fourDone_invalid (hm : s.rep.mem.wf = true) (hend : c.pendingEnd = .none) (hbank : c.bankCount ≠ 0)
    (hfill : c.bankCount < s.bankFill a.card c) (hroom : s.rep.queue.length < 16) :
    let la := s.endedNow a start
    s.fourDone q data =
      ({ s with
        rep := s.repInvalid a c la
        dev := s.devAfterDone a c
        four := s.four.set q.val ((s.fourAt q).afterDeselect s.time.count (fourDoneWire a c data)) q.isLt } : Part).endCard a.card
        (c.succeeded la) .failed .takenInvalid := by
  intro la
  have hsame := Part.bankFill_successTold hm q a c (fourDoneWire a c data) a.card
  have hanswer := Part.resultSample_invalid (s := s.successTold q a c (fourDoneWire a c data)) (n := a.card) (la := la) hbank
    (hsame.symm ▸ hfill) data
  rw [Part.request_room (s := s.successTold q a c (fourDoneWire a c data)) hrun (Or.inl rfl) hroom] at hanswer
  rw [Part.fourDone_answered hstate hstart hsense hctx hdata hanswer, Part.afterEnd_invalid (c := c.succeeded la) hend, Part.endCardWork,
    Part.finish_free (Part.endCard_ctx _ _ _ _ _), Part.tryStop_of_running]
  · rfl
  · exact hrun

end

end Sys2Proof.Machine
end

section
/-! The memory that DONE leaves for a card with a bank, and obligation O47 (R57, R117, R118, R127 to R135). -/

namespace Sys2Proof.Machine

/-- The memory after a success of a card with a bank that goes on: the status word, the sample, then the counters. -/
def Memory.afterSample (m : Memory) (old new : DeviceUnit) (d : DevIx) (n : CardIx) (c : Context) (fill : Nat) (p : Sample)
    (la : LastAttempt) : Memory := ((m.withStatus old new d).withSample n c fill p).withCounters n (c.sampledAt fill) la

section
variable {m : Memory} (hm : m.wf = true) (old new : DeviceUnit) (d : DevIx) (n : CardIx) (c : Context) (la : LastAttempt)
include hm

/-! ### A card that goes on -/

theorem Memory.showsEnd_afterSample (fill : Nat) (p : Sample) :
    Memory.ShowsEnd ((m.withStatus old new d).withSample n c fill p) (m.afterSample old new d n c fill p la) n
      ((c.sampledAt fill).succeeded la).liveWord (c.run + 1#32)
      (Word.ofHalves (c.retriesTotal.saturatingAdd c.retryTally) (c.yieldsTotal.saturatingAdd c.yieldTally)) la.start la.stop := by
  have hbank := Memory.wf_withSample (Memory.wf_withStatus hm old new d) n c fill p
  have hshows := Memory.showsEnd_withCounters hbank n (c.sampledAt fill) la ((c.sampledAt fill).succeeded la).liveWord
  rwa [Memory.withCounters_live hbank n (c.sampledAt fill) la] at hshows

theorem Memory.showsDone_afterSample (fill : Nat) (p : Sample) :
    Memory.ShowsDone m (m.afterSample old new d n c fill p la) old new d n (c.run + 1#32)
      (Word.ofHalves (c.retriesTotal.saturatingAdd c.retryTally) (c.yieldsTotal.saturatingAdd c.yieldTally)) la.start la.stop := by
  have hlow : 0x4000 ≤ Addr.slot (c.bankFirst + c.position) := Nat.le_add_right _ _
  exact Memory.showsDone_afterBank hm
    (fun x hx hout => Memory.get_withSample (Memory.wf_withStatus hm old new d) n c fill p (by omega) hout)
    (Memory.showsEnd_afterSample hm old new d n c la fill p) (fun _ _ => rfl)

theorem Memory.madeLost_afterSample (fill : Nat) (p : Sample) :
    (m.afterSample old new d n c fill p la).word (Addr.progress n + 4) = Word.ofHalves (c.sampledAt fill).made (c.sampledAt fill).lost :=
  ((Memory.showsEnd_afterSample hm old new d n c la fill p).kept 4 (Or.inl rfl)).trans
    (Memory.word_withSample (Memory.wf_withStatus hm old new d) n c fill p)

theorem Memory.showsSample_afterSample {fill : Nat} (p : Sample) (hwritten : ¬c.dropsAt fill) :
    (m.afterSample old new d n c fill p la).ShowsSample (Addr.slot (c.bankFirst + c.position)) p := by
  have hstatus := Memory.wf_withStatus hm old new d
  have habove := Addr.progress_lt_slot n (c.bankFirst + c.position)
  exact Memory.showsSample hstatus (fun x hx _ =>
    ((Memory.showsEnd_afterSample hm old new d n c la fill p).outside x (by omega)).trans
      (Memory.get_withSample_slot hstatus n c fill p hwritten hx))

/-- A byte outside the slot, if it is written, the progress half and the device's status word stands. -/
theorem Memory.get_afterSample {fill : Nat} (p : Sample) {x : Nat}
    (hslot : ¬(¬c.dropsAt fill ∧ Addr.slot (c.bankFirst + c.position) ≤ x ∧ x < Addr.slot (c.bankFirst + c.position) + 32))
    (hhalf : ¬(Addr.progress n ≤ x ∧ x < Addr.progress n + 32)) (hword : ¬(Addr.status d ≤ x ∧ x < Addr.status d + 4)) :
    (m.afterSample old new d n c fill p la).get x = m.get x :=
  ((Memory.showsEnd_afterSample hm old new d n c la fill p).outside x hhalf).trans
    ((Memory.get_withSample (Memory.wf_withStatus hm old new d) n c fill p hslot (by omega)).trans (Memory.get_withStatus hm _ _ hword))

/-! ### A card that ends -/

variable {r : Reports} (hr : r.mem = (m.withStatus old new d).withCounters n c la)
include hr

/-- Outside its word of the done map, an end writes the progress word after the counters. -/
theorem Reports.get_endWord_counters (w : Word) {x : Nat}
    (hx : ¬(Addr.doneMap + 4 * (n.val / 32) ≤ x ∧ x < Addr.doneMap + 4 * (n.val / 32) + 4)) :
    (r.endWord n w).mem.get x = (((m.withStatus old new d).withCounters n c la).setWord (Addr.progress n) w).get x := by
  have hwf : r.mem.wf = true := hr ▸ Memory.wf_withCounters (Memory.wf_withStatus hm old new d) n c la
  rw [Reports.get_endWord hwf w hx, Reports.writeProgress, hr]

theorem Reports.showsDone_endWord (w : Word) :
    Memory.ShowsDone m (r.endWord n w).mem old new d n (c.run + 1#32)
      (Word.ofHalves (c.retriesTotal.saturatingAdd c.retryTally) (c.yieldsTotal.saturatingAdd c.yieldTally)) la.start la.stop := by
  have hmap := Addr.doneWord_lt_status n d
  exact Memory.showsDone_afterBank hm (fun _ _ _ => rfl)
    (Memory.showsEnd_withCounters (Memory.wf_withStatus hm old new d) n c la w)
    (fun x hx => Reports.get_endWord_counters hm old new d n c la hr w (by omega))

theorem Reports.madeLost_endWord (w : Word) : (r.endWord n w).mem.word (Addr.progress n + 4) = m.word (Addr.progress n + 4) := by
  have hmap := Addr.doneWord_lt_progress n
  have hbelow := Addr.status_lt_progress d n
  have hshows := Memory.showsEnd_withCounters (Memory.wf_withStatus hm old new d) n c la w
  calc (r.endWord n w).mem.word (Addr.progress n + 4)
      = (((m.withStatus old new d).withCounters n c la).setWord (Addr.progress n) w).word (Addr.progress n + 4) :=
        Memory.word_congr (fun b h1 _ => Reports.get_endWord_counters hm old new d n c la hr w (by omega))
    _ = (m.withStatus old new d).word (Addr.progress n + 4) := hshows.kept 4 (Or.inl rfl)
    _ = m.word (Addr.progress n + 4) := Memory.word_congr (fun b h1 _ => Memory.get_withStatus hm _ _ (by omega))

theorem Reports.get_endWord_outside (w : Word) {x : Nat} (hx : ¬Addr.ofCardReport n x)
    (hword : ¬(Addr.status d ≤ x ∧ x < Addr.status d + 4)) : (r.endWord n w).mem.get x = m.get x := by
  obtain ⟨hhalf, hmap⟩ := not_or.mp hx
  have hshows := Memory.showsEnd_withCounters (Memory.wf_withStatus hm old new d) n c la w
  rw [Reports.get_endWord_counters hm old new d n c la hr w hmap, hshows.outside x hhalf, Memory.get_withStatus hm _ _ hword]

end

/-! ### The obligation -/

theorem Part.devAfterDone_unguarded {s : Part} {a : Attempt} {c : Context} (hhealth : (s.dev.get a.device).health ≠ .fenced)
    (hguard : c.flags.setting = false ∨ a.entry.guardTime = 0) :
    s.devAfterDone a c = s.dev.put a.device { s.dev.get a.device with health := .healthy, faults := 0 } := by
  rw [Part.devAfterDone, DeviceRecord.succeeded_unguarded hhealth hguard]

/-- Settles O47: the port and the frame of DONE on a four-wire port, and for a card with a bank the sample and the card's next step. -/
theorem fourWireDoneWritesSample : Obligations.FourWireDoneWritesSample := by
  constructor
  · intro s q a start c data hstate hstart hctx hdata live
    let wire := fourDoneWire a c data
    have hframe : OnlyOutcome (s.part.setFour q (s.part.portAfterDone q wire)) (s.part.fourDone q data) := by
      rw [Part.fourDone_eq hstate hctx hdata]
      exact attemptEnded_onlyOutcome _ _ a _ _ _
    have hlive : s.part.run.state.live = true ↔ live := RunState.live_iff _
    exact ⟨{ s with part := s.part.fourDone q data }, wire, s.part.portAfterDone q wire, exec_fourWireDone q data s, rfl, hframe.four,
      fun h => Part.portAfterDone_idle (h.imp_right (fun hnot => Bool.eq_false_iff.mpr (mt hlive.mp hnot))) wire,
      fun h hsense hl hheader => Part.portAfterDone_yielded hsense (hlive.mpr hl) hheader wire,
      hframe.time, hframe.host, hframe.intake, hframe.waiting, hframe.two, hframe.freeCount⟩
  · intro s q a start c data h hm hrun hheader hstate hstart hsense hctx hdata hkind hcount hend hdebt hbank hhealth hguard hdue
      now fill room keeps drops slot half made lost counted u flags after shows
    let la := s.part.endedNow a start
    let wire := fourDoneWire a c data
    have hu : s.part.devAfterDone a c = u := Part.devAfterDone_unguarded hhealth hguard
    refine ⟨fun hvalid => ?_, fun hinvalid hroom => ?_⟩
    · let p := c.sample a.card la .ok data
      have hfill : fill ≤ c.bankCount := by
        rcases hvalid with hroom | hkeeps | hdrops
        · exact Nat.le_of_lt hroom
        · exact Nat.le_of_eq hkeeps.1
        · exact Nat.le_of_eq hdrops.1
      have hdone := Part.fourDone_goesOn hrun hstate hstart hsense hctx hdata hm hheader hkind hcount hend hdebt hbank hdue hfill
      rw [hu] at hdone
      refine ⟨s.part.rep.mem.afterSample s.part.dev u a.device a.card c fill p la, wire,
        (exec_fourWireDone q data s).trans (next_congr hdone), Memory.showsDone_afterSample hm _ _ _ _ c la fill p,
        Memory.madeLost_afterSample hm _ _ _ _ c la fill p, ?_, fun hwritten => ?_,
        fun x hslot hhalf hword => Memory.get_afterSample hm _ _ _ _ c la p hslot hhalf hword⟩
      · rw [← hdebt]
        exact (Memory.showsEnd_afterSample hm _ _ _ _ c la fill p).word
      · have hsample := Memory.showsSample_afterSample hm s.part.dev u a.device a.card c la p hwritten
        have htake : p.data = data := List.take_of_length_le (Nat.le_of_eq hdata)
        refine ⟨hsample.sequence, hsample.card, hsample.generation, hsample.start, hsample.status, hsample.readCount, hsample.flags,
          fun i hi => ?_, hsample.spare⟩
        exact (hsample.data i hi).trans (congrArg (fun l : List Byte => l.getD i 0#8) htake)
    · let w := (c.succeeded la).wordAs .failed .takenInvalid
      let rep := s.part.repInvalid a c la
      have hdone : s.part.fourDone q data = _ := Part.fourDone_invalid hrun hstate hstart hsense hctx hdata hm hend hbank hinvalid hroom
      have hr : rep.mem = (s.part.rep.mem.withStatus s.part.dev u a.device).withCounters a.card c la := by
        rw [Part.repInvalid_mem, hu]
      have hwf : rep.mem.wf = true := hr ▸ Memory.wf_withCounters (Memory.wf_withStatus hm _ _ _) a.card c la
      have hended : (s.part.fourDone q data).cardEnded a.card c.generation .failed .takenInvalid := by
        rw [hdone]
        refine Part.endCard_cardEnded ?_ a.card (c.succeeded la) .failed .takenInvalid
        exact hwf
      rw [Part.endCard_repInvalid, hu] at hdone
      refine ⟨(rep.endWord a.card w).mem, wire, (exec_fourWireDone q data s).trans (next_congr ?done), ?ended,
        Reports.showsDone_endWord hm _ _ _ _ c la hr w, Reports.madeLost_endWord hm _ _ _ _ c la hr w, ?word,
        fun x hx hword => Reports.get_endWord_outside hm _ _ _ _ c la hr w hx hword⟩
      case done => exact hdone
      case ended =>
        rw [hdone] at hended
        exact hended
      case word =>
        rw [← hdebt]
        exact Reports.word_progress_endWord hwf a.card w

end Sys2Proof.Machine
end

section
/-! The bytes of a two-wire leg in their order, the bits and clock edges of a four-wire attempt, the starts and selects of attempts, and the
lines that the ports drive (R87, R90 to R94, R111 to R113, Tables 5-1, 5-3, 6-1 and 6-2). -/

namespace Sys2Proof.Machine

/-! ### The bytes of a two-wire leg (R91 to R94) -/

/-- Bytes that are laid out at numbered positions keep their order. -/
theorem kinds_zipIdx (xs : List Byte) (pos : Nat → BusPos) (l : Nat) (f : Byte → SlotKind) :
    (xs.zipIdx.map (fun b => ({ pos := pos b.2, leg := l, kind := f b.1 } : Slot))).map Slot.kind = xs.map f := by
  rw [List.map_map]
  calc xs.zipIdx.map (fun b => f b.1) = (xs.zipIdx.map Prod.fst).map f := by rw [List.map_map]; rfl
    _ = xs.map f := by rw [List.zipIdx_map_fst]

/-- The address bytes by address size and direction (Table 5-3). -/
theorem addressBytes_eq (e : DeviceEntry) (op : LegOp) :
    addressBytes e op =
      if e.tenBit then
        (if op = .write then [tenBitHead e.address false, byteOf (e.address % 256)]
         else [tenBitHead e.address false, byteOf (e.address % 256), tenBitHead e.address true])
      else (if op = .write then [byteOf (2 * e.address)] else [byteOf (2 * e.address + 1)]) := by
  unfold addressBytes
  cases e.tenBit <;> cases op <;> rfl

/-- A WRITE leg sends its inline data and with CHECK their check byte (R92, R94). -/
theorem kinds_dataSlots_write {c : Context} {leg : Leg} (hop : leg.op = .write) (check : Bool) (l : Nat) :
    (c.dataSlots check leg l).map Slot.kind =
      (c.legData leg).map SlotKind.out ++ (if check then [SlotKind.out (crc8 (c.legData leg))] else []) := by
  unfold Context.dataSlots
  simp only [hop]
  rw [kinds_zipIdx _ (BusPos.data l)]
  cases check <;> simp

/-- Without CHECK every data byte of a READ leg but the last is acknowledged (R93). -/
theorem acks_without_check (n : Nat) :
    (List.range n).map (fun i => SlotKind.read (decide (i + 1 < n))) =
      List.replicate (n - 1) (SlotKind.read true) ++ List.replicate (min 1 n) (SlotKind.read false) := by
  cases n with
  | zero => rfl
  | succ k =>
    have hbefore : (List.range k).map (fun i => SlotKind.read (decide (i + 1 < k + 1))) = List.replicate k (SlotKind.read true) :=
      List.eq_replicate_iff.mpr ⟨by simp, fun x hx => by
        obtain ⟨i, hi, rfl⟩ := List.mem_map.mp hx
        simp [List.mem_range.mp hi]⟩
    rw [List.range_succ, List.map_append, hbefore]
    simp

/-- A READ leg receives its data bytes and with CHECK the device's check byte (R93, R94). -/
theorem kinds_dataSlots_read {c : Context} {leg : Leg} (hop : leg.op = .read) (check : Bool) (l : Nat) :
    (c.dataSlots check leg l).map Slot.kind =
      if check then List.replicate leg.length (SlotKind.read true) ++ [SlotKind.readCheck]
      else List.replicate (leg.length - 1) (SlotKind.read true) ++ List.replicate (min 1 leg.length) (SlotKind.read false) := by
  unfold Context.dataSlots
  simp only [hop, List.map_append, List.map_map]
  cases check with
  | true =>
    have hacks : List.map (fun _ => SlotKind.read true) (List.range leg.length) = List.replicate leg.length (SlotKind.read true) := by
      rw [List.map_const', List.length_range]
    exact congrArg (· ++ [SlotKind.readCheck]) hacks
  | false =>
    rw [← acks_without_check]
    exact List.append_nil _

/-- Settles O36: the address bytes by Table 5-3, then the data and check bytes by the direction of the leg. -/
theorem twoWireLegBytes : Obligations.TwoWireLegBytes := by
  intro c e l leg kinds head low address data
  have hkinds : kinds = (addressBytes e leg.op).map SlotKind.address ++ (c.dataSlots e.check leg l).map Slot.kind := by
    simp only [kinds, Context.twoLegSlots, List.map_append, kinds_zipIdx _ (BusPos.address l)]
  have haddress : addressBytes e leg.op = address := addressBytes_eq e leg.op
  rw [hkinds, haddress]
  refine ⟨fun hop => ?_, fun hop => ?_⟩
  · rw [kinds_dataSlots_write hop, ← List.append_assoc]
    rfl
  · rw [kinds_dataSlots_read hop]

/-! ### The bits and edges of a four-wire attempt (R112, Table 6-2) -/

theorem byteBits_getElem? (b : Byte) {i : Nat} (hi : i < 8) : (byteBits b)[i]? = some (b.getLsbD (7 - i)) := by
  simp [byteBits, hi]

/-- The bits of the bytes follow each other, each byte most significant bit first. -/
theorem outBits_getElem? (e : DeviceEntry) {i : Nat} (hi : i < 8) :
    ∀ {slots : List Slot} {j : Nat} {slot : Slot}, slots[j]? = some slot →
      (outBits e slots)[8 * j + i]? = some ((slot.shiftedOut e.fill).getLsbD (7 - i))
  | x :: slots, j, slot, h => by
    have hlength : (byteBits (x.shiftedOut e.fill)).length = 8 := by simp [byteBits]
    have hcons : outBits e (x :: slots) = byteBits (x.shiftedOut e.fill) ++ outBits e slots := List.flatMap_cons
    rw [hcons]
    cases j with
    | zero =>
      obtain rfl : x = slot := by simpa using h
      rw [Nat.mul_zero, Nat.zero_add, List.getElem?_append_left (by omega), byteBits_getElem? _ hi]
    | succ j =>
      have hnext : 8 * (j + 1) + i - 8 = 8 * j + i := by omega
      rw [List.getElem?_append_right (by omega), hlength, hnext]
      exact outBits_getElem? e hi (by simpa using h)

/-- The first edge of a bit leaves the idle level and the second returns to it; one samples, and the other changes the data (R112). -/
theorem ClockMode.bitEdges_eq (m : ClockMode) (bit : Bool) (next : Option Bool) :
    m.bitEdges bit next =
      [{ high := !m.idleHigh, presents := if m.samplesFirst then none else some bit, samples := m.samplesFirst },
        { high := m.idleHigh, presents := if m.samplesFirst then next else none, samples := !m.samplesFirst }] := by
  unfold ClockMode.bitEdges
  cases m.samplesFirst <;> rfl

/-- Each bit of a run has its two edges, with the bit after it. -/
theorem ClockMode.edges_getElem? (m : ClockMode) {k : Nat} (hk : k < 2) :
    ∀ {bits : List Bool} {i : Nat} {bit : Bool}, bits[i]? = some bit →
      (m.edges bits)[2 * i + k]? = (m.bitEdges bit bits[i + 1]?)[k]?
  | x :: bits, i, bit, h => by
    have hlength : (m.bitEdges x bits.head?).length = 2 := by rw [ClockMode.bitEdges_eq]; rfl
    rw [ClockMode.edges]
    cases i with
    | zero =>
      obtain rfl : x = bit := by simpa using h
      rw [Nat.mul_zero, Nat.zero_add, List.getElem?_append_left (by omega)]
      simp [List.head?_eq_getElem?]
    | succ i =>
      have hnext : 2 * (i + 1) + k - 2 = 2 * i + k := by omega
      rw [List.getElem?_append_right (by omega), hlength, hnext, ClockMode.edges_getElem? m hk (by simpa using h)]
      simp

/-- Modes 0 and 2 sample at the first edge of a bit (Table 6-2). -/
theorem clockMode_samplesFirst (mode : Nat) : (clockMode mode).samplesFirst = (mode == 0 || mode == 2) := by
  match mode with
  | 0 | 1 | 2 => rfl
  | n + 3 => simp [clockMode]

/-! ### Starts and selects (R90, R113) -/

theorem measureReaches_of {m : Measure} {since : Time} {ns : Nat} (hsince : m.since = since) (hns : ns ≤ m.ns) :
    measureReaches m since ns = true := by
  simp [measureReaches, hsince, hns]

/-- The bus-free interval of a speed in ns (Table 5-2). -/
theorem busFreeInterval_ns (speed : Nat) :
    1000 * busFreeInterval speed = if speed = 0 then 5000 else if speed = 1 then 2000 else 1000 := by
  match speed with
  | 0 | 1 => rfl
  | n + 2 => simp [busFreeInterval]

/-- The attempt with its start stamp taken now. -/
def Part.stamped (s : Part) (a : Attempt) : Attempt := { a with start := some s.now, fallback := s.time.source == .fallback }

theorem Part.driveStart_eq {s : Part} {p : TwoIx} {a : Attempt} {free : Measure} (hstate : (s.twoAt p).state = .active .start a)
    (hstart : a.start = none) (hview : (s.twoAt p).viewBusy = false) (hsince : free.since = (s.twoAt p).lastStop)
    (hns : 1000 * busFreeInterval a.entry.speed ≤ free.ns) :
    s.driveStart p free =
      s.setTwo p
        { s.twoAt p with
          state := .active .address (s.stamped a), viewBusy := true, measureFrom := s.now, wire := [.start] } := by
  have hpending : (s.twoAt p).pendingStart = some a := by simp [TwoWire.pendingStart, hstate, hstart]
  unfold Part.driveStart
  simp only [hpending]
  rw [if_pos (by simp [hview, measureReaches_of hsince hns])]
  rfl

theorem Part.selectAssert_eq {s : Part} {q : FourIx} {a : Attempt} {deselected idle : Measure}
    (hstate : (s.fourAt q).state = .active (.select false) a) (hsince : deselected.since = (s.fourAt q).lastDeselect)
    (hns : 1000 ≤ deselected.ns) (hchosen : idle.since = a.chosenAt) (hbit : a.entry.bitTime ≤ idle.ns) :
    s.selectAssert q deselected idle =
      s.setFour q
        { s.fourAt q with
          state := .active (.select true) (s.stamped a), wire := (s.fourAt q).wire ++ [.select a.entry.address] } := by
  unfold Part.selectAssert
  simp only [hstate]
  rw [if_pos (by simp [measureReaches_of hsince hns, measureReaches_of hchosen hbit])]
  rfl

theorem Part.selectLeadEnd_eq {s : Part} {q : FourIx} {a : Attempt} {start : Time} {lead : Measure}
    (hstate : (s.fourAt q).state = .active (.select true) a) (hstart : a.start = some start) (hsince : lead.since = start)
    (hns : 1000 * a.entry.reply ≤ lead.ns) :
    s.selectLeadEnd q lead = s.setFour q { s.fourAt q with state := .active .data a } := by
  unfold Part.selectLeadEnd
  simp only [hstate, hstart]
  rw [if_pos (measureReaches_of hsince hns)]

/-! ### The lines (Tables 5-1 and 6-1) -/

/-- A four-wire port that is not ACTIVE drives nothing. -/
theorem Part.fourLines_quiet {s : Part} {q : FourIx} (h : ∀ phase a, (s.fourAt q).state ≠ .active phase a) :
    s.fourLines q = .quiet := by
  unfold Part.fourLines
  cases hstate : (s.fourAt q).state with
  | active phase a => exact absurd hstate (h phase a)
  | idle | yielded | fenced => rfl

/-- In phase SELECT the clock stands at its idle level, and data out shows the bit that the mode presents (R113). -/
theorem Part.fourLines_select {s : Part} {q : FourIx} {a : Attempt} {c : Context} {asserted : Bool}
    (hstate : (s.fourAt q).state = .active (.select asserted) a) (hctx : s.ctx a.card = some c) :
    s.fourLines q =
      { clock := .at' (clockMode a.entry.mode).idleHigh
        dataOut := (presentedFirst a.entry (c.fourSlots a.entry)).elim (.ofLevel Config.unpresentedDataOut) .at'
        asserted := if asserted then some (Fin.ofNat 4 a.entry.address) else none } := by
  unfold Part.fourLines
  simp only [hstate, hctx, Option.bind_some]
  cases presentedFirst a.entry (c.fourSlots a.entry) <;> rfl

/-- Modes 0 and 2 present the first bit before the first edge (R113, Table 6-2). -/
theorem presentedFirst_eq {e : DeviceEntry} (hmode : e.mode = 0 ∨ e.mode = 2) (ss : List Slot) :
    presentedFirst e ss = (outBits e ss).head? := by
  have hfirst : (clockMode e.mode).samplesFirst = true := by
    rw [clockMode_samplesFirst]
    rcases hmode with h | h <;> simp [h]
  rw [presentedFirst, if_pos hfirst]

/-- A two-wire port drives nothing but in an attempt whose start has been driven and in a recovery. -/
theorem TwoWire.lines_released {t : TwoWire} (hattempt : t.startedAttempt = none) (hrecovery : t.recovery = none) :
    t.lines = { clock := .released, data := .released } := by
  unfold TwoWire.startedAttempt at hattempt
  unfold TwoWire.recovery at hrecovery
  unfold TwoWire.lines
  cases hstate : t.state with
  | active phase a =>
    have hstart : a.start.isSome = false := by simpa [hstate] using hattempt
    simp [hstart]
  | recovering r => simp [hstate] at hrecovery
  | idle | held | fenced => rfl

/-- The two edges of bit `i` of an attempt (R112, Table 6-2). -/
theorem attemptEdges_getElem? {e : DeviceEntry} {slots : List Slot} {i : Nat} {bit : Bool} (h : (outBits e slots)[i]? = some bit)
    {k : Nat} (hk : k < 2) :
    (attemptEdges e slots)[2 * i + k]? = ((clockMode e.mode).bitEdges bit (outBits e slots)[i + 1]?)[k]? :=
  ClockMode.edges_getElem? _ hk h

/-- Settles O37: the start, the select and its lead, the lines, and the edges of phase DATA. -/
theorem attemptsStartAfterTheirIntervals : Obligations.AttemptsStartAfterTheirIntervals := by
  refine ⟨?_, ?_, fun s q h => Part.fourLines_quiet h, ?_, fun t => TwoWire.lines_released, ?_⟩
  · intro s p a free t interval hstate hstart hview hsince hns
    exact next_congr (Part.driveStart_eq hstate hstart hview hsince ((busFreeInterval_ns a.entry.speed).trans_le hns))
  · intro s q a t now
    exact ⟨fun deselected idle hstate hsince hns hchosen hbit => next_congr (Part.selectAssert_eq hstate hsince hns hchosen hbit),
      fun start lead hstate hstart hsince hns => next_congr (Part.selectLeadEnd_eq hstate hstart hsince hns)⟩
  · intro s q a c asserted haddress hstate hctx _
    rw [Part.fourLines_select hstate hctx]
    have hselect : Fin.ofNat 4 a.entry.address = ⟨a.entry.address, haddress⟩ := Fin.ext (Nat.mod_eq_of_lt haddress)
    refine ⟨?_, by rw [hselect], fun bit hfirst hbit => ?_⟩
    · rw [clockMode_idleHigh]
      by_cases hhigh : 2 ≤ a.entry.mode <;> simp [LineDrive.at', hhigh]
    · rw [presentedFirst_eq hfirst, hbit]
      rfl
  · intro e slots _
    refine ⟨fun j i slot hslot hi => outBits_getElem? e hi hslot, fun i bit hbit => ?_⟩
    intro idle first
    have hidle : (clockMode e.mode).idleHigh = idle := clockMode_idleHigh e.mode
    have hfirst : (clockMode e.mode).samplesFirst = first := clockMode_samplesFirst e.mode
    have hedge : ∀ k < 2, (attemptEdges e slots)[2 * i + k]? = _ := fun k hk => attemptEdges_getElem? hbit hk
    simp only [ClockMode.bitEdges_eq, hidle, hfirst] at hedge
    exact ⟨_, _, hedge 0 Nat.zero_lt_two, hedge 1 Nat.one_lt_two, rfl, rfl, rfl, rfl, rfl, rfl⟩

end Sys2Proof.Machine
end

section
/-! The bus monitor of a two-wire port, and the recovery of an attempt after a stretch timeout (R87 to R89, R96, R102 to R104). -/

namespace Sys2Proof.Machine

/-! ### What the bus monitor reports (R88, R89) -/

/-- An event outside RESET_N is taken. -/
theorem Part.unlessReset_taken {s : Part} (h : s.host.resetAsserted = false) (f : Part → Part) : s.unlessReset f = f s := by
  rw [Part.unlessReset, if_neg (by simp [h])]

/-- A port whose view is BUSY takes up HELD in a live run state, its hold timer started (R89, R100). -/
theorem Part.twoIdle_live {s : Part} {h : Header} (hlive : s.run.state.live = true) (hh : s.intake.header = some h) {t : TwoWire}
    (hview : t.viewBusy = true) :
    s.twoIdle t = { t with state := .held, holdTimer := some (s.time.count + BitVec.ofNat 32 (1000 * h.holdLimit)) } := by
  rw [Part.twoIdle, if_pos (by simp [hview, hlive]), Part.holdExpiry, hh]
  rfl

/-- In a run state that is not live, or with the view FREE, it takes up IDLE (R89). -/
theorem Part.twoIdle_idle {s : Part} {t : TwoWire} (h : t.viewBusy = false ∨ s.run.state.live = false) :
    s.twoIdle t = { t with state := .idle, holdTimer := none } := by
  rw [Part.twoIdle, if_neg (by rcases h with h | h <;> simp [h])]

/-- A port with a start condition seen on its bus: the view is BUSY, and the 100 us measure begins afresh (R88). -/
def TwoWire.startNoted (t : TwoWire) (now : Time) : TwoWire := { t with viewBusy := true, measureFrom := now }

/-- A start on an IDLE port's bus makes it take up IDLE or HELD by the new view (R89). -/
theorem Part.startSeen_idle {s : Part} {p : TwoIx} (hstate : (s.twoAt p).state = .idle) :
    s.startSeen p = s.setTwo p (s.twoIdle ((s.twoAt p).startNoted s.now)) := by
  have hpending : (s.twoAt p).pendingStart = none := by rw [TwoWire.pendingStart, hstate]
  unfold Part.startSeen
  simp only [hpending, hstate]
  rfl

/-- A start leaves every other state as it is, but where the part's own start is still to be driven (R88). -/
theorem Part.startSeen_notIdle {s : Part} {p : TwoIx} (hstate : (s.twoAt p).state ≠ .idle)
    (hpending : (s.twoAt p).pendingStart = none) : s.startSeen p = s.setTwo p ((s.twoAt p).startNoted s.now) := by
  unfold Part.startSeen TwoWire.startNoted
  simp only [hpending]
  cases hs : (s.twoAt p).state with
  | idle => exact absurd hs hstate
  | held | active _ _ | recovering _ | fenced => rfl

theorem TwoWire.freed_held {t : TwoWire} (h : t.state = .held) :
    t.freed = { t with viewBusy := false, state := .idle, holdTimer := none } := by
  rw [TwoWire.freed, h]

theorem TwoWire.freed_notHeld {t : TwoWire} (h : t.state ≠ .held) : t.freed = { t with viewBusy := false } := by
  unfold TwoWire.freed
  cases hs : t.state with
  | held => exact absurd hs h
  | idle | active _ _ | recovering _ | fenced => rfl

/-- 100 us with both lines high free the view of a port that drives nothing (R88). -/
theorem Part.busFree_eq {s : Part} {p : TwoIx} {high : Measure} (hview : (s.twoAt p).viewBusy = true)
    (hdrives : (s.twoAt p).drives = false) (hsince : high.since = (s.twoAt p).measureFrom) (hns : 100000 ≤ high.ns) :
    s.busFree p high = s.setTwo p (s.twoAt p).freed := by
  have hreaches : measureReaches high (s.twoAt p).measureFrom 100000 = true := measureReaches_of hsince hns
  unfold Part.busFree
  rw [if_pos (by rw [hview, hdrives, hreaches]; rfl)]

/-- Settles O38: starts by the port's state and the run state, then stops, the 100 us, and falls of a line. -/
theorem busMonitorFollowsConditions : Obligations.BusMonitorFollowsConditions := by
  intro s p hreset t now live
  have htaken : ∀ {f : Part → Part} {u : TwoWire}, f s.part = s.part.setTwo p u →
      (Host.Outcome.next { s with part := s.part.unlessReset f } : Host.Outcome State Fault Refusal) =
        .next { s with part := s.part.setTwo p u } :=
    fun h => next_congr ((Part.unlessReset_taken hreset _).trans h)
  refine ⟨fun h hidle hlive hh => ?_, fun hstate => ?_, fun hheld => ?_, fun hheld => ?_,
    fun high hview hsince hns => ⟨fun hheld => ?_, fun hstate => ?_⟩, ?_⟩
  · have hstates : s.part.run.state.live = true := (RunState.live_iff _).mpr hlive
    exact htaken ((Part.startSeen_idle hidle).trans
      (congrArg (s.part.setTwo p) (Part.twoIdle_live (t := t.startNoted now) hstates hh rfl)))
  · rcases hstate with ⟨hnot, hpending⟩ | ⟨hidle, htimer, hdead⟩
    · exact htaken (Part.startSeen_notIdle hnot hpending)
    · have hstates : s.part.run.state.live = false := by
        rw [← Bool.not_eq_true, RunState.live_iff]
        exact hdead
      have hport : s.part.twoIdle (t.startNoted now) = t.startNoted now := by
        rw [Part.twoIdle_idle (Or.inr hstates), TwoWire.startNoted, ← hidle, ← htimer]
      exact htaken ((Part.startSeen_idle hidle).trans (congrArg (s.part.setTwo p) hport))
  · exact htaken (congrArg (s.part.setTwo p) (TwoWire.freed_held (t := { t with lastStop := now }) hheld))
  · exact htaken (congrArg (s.part.setTwo p) (TwoWire.freed_notHeld (t := { t with lastStop := now }) hheld))
  · have hdrives : t.drives = false := by rw [TwoWire.drives, hheld]
    exact htaken ((Part.busFree_eq hview hdrives hsince hns).trans (congrArg (s.part.setTwo p) (TwoWire.freed_held hheld)))
  · have hdrives : t.drives = false := by rcases hstate with h | h <;> rw [TwoWire.drives, h]
    have hheld : t.state ≠ .held := by rcases hstate with h | h <;> simp [h]
    exact htaken ((Part.busFree_eq hview hdrives hsince hns).trans (congrArg (s.part.setTwo p) (TwoWire.freed_notHeld hheld)))
  · exact htaken rfl

/-! ### A stretch timeout and its recovery (R96, R102 to R104) -/

/-- A port that passes to RECOVERING for an attempt, the lines released (R102). -/
def TwoWire.stretched (t : TwoWire) (r : Recovery) (low : Measure) (now : Time) (wire : List BusItem) : TwoWire :=
  { t with state := .recovering r, measureFrom := now, stretchTimer := some low.since, wire := wire }

/-- A stretch timeout begins a recovery that keeps the fields of its record (R102). -/
theorem Part.stretchTimeout_eq {s : Part} {p : TwoIx} {a : Attempt} {start : Time} {c : Context} {pos : BusPos} {rx : List Byte}
    {low : Measure} {b : Before} (hcarries : s.carriesOut p a start c)
    (hloc : locateWith (c.twoSlots a.entry) c.legs.length pos rx = some b) (hfrom : Time.atOrAfter low.since start = true)
    (hto : Time.atOrAfter s.time.count low.since = true) (hns : 1000 * a.entry.reply ≤ low.ns) (dataHigh : Bool) :
    s.stretchTimeout p pos rx low dataHigh =
      s.setTwo p ((s.twoAt p).stretched
        { cause := .attempt a pos b.lastAddress (b.lastByte rx) (if dataHigh then 0x02#8 else 0x00#8)
          since := s.time.count, limit := s.holdLimitUs, changes := [] } low s.time.count (cutWire b rx)) := by
  have ⟨_, hstart, _⟩ := hcarries
  have hnow : Time.atOrAfter s.now low.since = true := hto
  have hout : s.stretchedOut a low = true := by simp [Part.stretchedOut, hstart, hfrom, hnow, hns]
  have hlevel : flagBit dataHigh 1 = if dataHigh then 0x02#8 else 0x00#8 := by cases dataHigh <;> rfl
  unfold Part.stretchTimeout
  simp only [Part.twoCourse_of_carriesOut hcarries, hloc]
  rw [if_pos hout, hlevel]
  rfl

/-- The traffic of a recovery that succeeds (R103). -/
def recoveredWire (t : TwoWire) (pulses : Nat) : List BusItem := t.wire ++ [.pulses pulses, .stop]

theorem recoveredWire_getLast (t : TwoWire) (pulses : Nat) : (recoveredWire t pulses).getLast? = some .stop := by
  simp [recoveredWire]

/-- A recovery that succeeds hands the attempt on with STRETCH_TIMEOUT, after its stop and its record (R103, R104). -/
theorem Part.recoveryDone_attempt {s : Part} {p : TwoIx} {a : Attempt} {c : Context} {pos : BusPos} {la lb lv : Byte} {r : Recovery}
    {pulses : Nat} (hpulses : pulses ≤ 9) (hstate : (s.twoAt p).state = .recovering r) (hcause : r.cause = .attempt a pos la lb lv)
    (hctx : s.ctx a.card = some c) :
    s.recoveryDone p pulses =
      ((s.stopDriven p (recoveredWire (s.twoAt p) pulses)).request
        { FaultRecord.bare .recoveryDone s.time.count with
          port := some (twoPort p), levels := 0x03#8, device := some c.device, resolved := some a.device
          card := some a.card, generation := c.generation }).attemptEnded (twoPort p) a (.stretchTimeout false) s.now
        (pointAt pos c.legs.length la lb lv) := by
  have hrecovery : (s.twoAt p).recovery = some r := by rw [TwoWire.recovery, hstate]
  have hrecord : s.recoveryRecord .recoveryDone p r.cause (twoLevels 0b11#2) =
      { FaultRecord.bare .recoveryDone s.time.count with
        port := some (twoPort p), levels := 0x03#8, device := some c.device, resolved := some a.device
        card := some a.card, generation := c.generation } := by
    rw [hcause, Part.recoveryRecord]
    simp only [hctx]
    rfl
  have hafter : ∀ t : Part, t.ctx a.card = some c → t.afterRecovery p r.cause false =
      t.attemptEnded (twoPort p) a (.stretchTimeout false) t.now (pointAt pos c.legs.length la lb lv) := fun t ht => by
    rw [hcause, Part.afterRecovery, ht]
  unfold Part.recoveryDone
  simp only [hrecovery]
  rw [if_pos hpulses, hrecord, Part.twoIdle_idle (Or.inl rfl)]
  exact hafter _ hctx

/-- Settles O45: the timeout on a port that carries out an attempt, and the success of the recovery that it begins. -/
theorem stretchTimeoutRecovers : Obligations.StretchTimeoutRecovers := by
  refine ⟨?_, ?_⟩
  · intro s p a start c pos rx low dataHigh b hcarries hloc hfrom hto hns
    exact ⟨cutWire b rx, _, cutWire_getLast b rx, rfl, rfl,
      next_congr (Part.stretchTimeout_eq hcarries hloc hfrom hto hns dataHigh)⟩
  · intro s p a start c pos la lb lv since limit pulses changes hrun hpulses hstate hstart hctx hr
    refine ⟨recoveredWire (s.part.twoAt p) pulses, recoveredWire_getLast _ _, ?_⟩
    exact next_congr ((Part.recoveryDone_attempt hpulses hstate rfl hctx).trans
      (Part.attemptEnded_retries (s := (s.part.stopDriven p _).request _) hrun hstart hctx rfl rfl hr (twoPort p) _))

end Sys2Proof.Machine
end

section
/-! The end of the clearing of attach with both data lines high: the report words it writes, the ports that take up a live run state, and
the entry into RUNNING or the STOP that was held (R89, R118, R140, R158, R172). -/

namespace Sys2Proof.Machine

/-! ### The words that attach clears (R86, R172) -/

/-- A byte read after the status words of some devices have been written at attach. -/
theorem Memory.get_statusWords {a : Nat} :
    ∀ (ds : List DevIx) {m : Memory}, m.wf = true →
      (ds.foldl (fun m d => m.setWord (Addr.status d) statusAtAttach) m).get a =
        if ∃ d ∈ ds, Addr.status d ≤ a ∧ a < Addr.status d + 4 then statusAtAttach.byte ((a - 0x0500) % 4) else m.get a
  | [], _, _ => by simp
  | d :: ds, m, hm => by
    rw [List.foldl_cons, Memory.get_statusWords ds (Memory.wf_setWord hm _ _), Memory.get_setWord hm]
    have hoffset : Addr.status d ≤ a ∧ a < Addr.status d + 4 → (a - 0x0500) % 4 = a - Addr.status d := by
      unfold Addr.status
      omega
    by_cases hhere : Addr.status d ≤ a ∧ a < Addr.status d + 4
    · simp [hhere, hoffset hhere]
    · simp [hhere]

theorem statusAtAttach_byte {i : Nat} (hi : i < 4) : Word.byte statusAtAttach i = if i = 2 then 0xFF#8 else 0#8 := by
  revert i
  decide

/-- The status words of the devices fill their region. -/
theorem Addr.status_covers (a : Nat) :
    (∃ d ∈ List.finRange Config.devices, Addr.status d ≤ a ∧ a < Addr.status d + 4) ↔ 0x0500 ≤ a ∧ a < 0x0600 := by
  unfold Addr.status
  constructor
  · rintro ⟨d, _, h⟩
    have hd : d.val < 64 := d.isLt
    omega
  · intro h
    have hd : (a - 0x0500) / 4 < 64 := by omega
    refine ⟨⟨(a - 0x0500) / 4, hd⟩, List.mem_finRange _, ?_⟩
    simp only
    omega

/-- A byte read after the whole clearing of attach. -/
theorem Memory.get_attachClear {m : Memory} (hm : m.wf = true) (a : Nat) :
    (m.attachClear (fun _ => true)).get a =
      if Addr.clearedByAttach a then (if 0x0500 ≤ a ∧ a < 0x0600 ∧ a % 4 = 2 then 0xFF#8 else 0#8) else m.get a := by
  have hclear := Memory.wf_clearWhere (fun a => Addr.clearedByAttach a && true) hm
  have hget := Memory.get_statusWords (a := a) (List.finRange Config.devices) hclear
  rw [if_congr (Addr.status_covers a) rfl rfl, Memory.get_clearWhere, Bool.and_true, statusAtAttach_byte (Nat.mod_lt _ (by omega))] at hget
  refine Eq.trans (by unfold Memory.attachClear; simp only [if_true]) (hget.trans ?_)
  by_cases hstatus : 0x0500 ≤ a ∧ a < 0x0600
  · have hcleared : Addr.clearedByAttach a = true := by simp [Addr.clearedByAttach, hstatus]
    have hmod : (a - 0x0500) % 4 = a % 4 := by omega
    simp only [hstatus, hcleared, hmod, if_true, true_and]
  · have hout : ¬(0x0500 ≤ a ∧ a < 0x0600 ∧ a % 4 = 2) := fun h => hstatus ⟨h.1, h.2.1⟩
    rw [if_neg hstatus, if_neg hout]

/-! ### Ports that take up a live run state (R89, R118) -/

theorem Part.twoIdle_busy (s : Part) (t : TwoWire) : (s.twoIdle t).busy = false := by
  unfold Part.twoIdle
  split <;> rfl

theorem Part.fourIdle_busy (s : Part) (t : FourWire) : (s.fourIdle t).busy = false := by
  unfold Part.fourIdle
  split <;> rfl

theorem Part.twoIdle_recovery (s : Part) (t : TwoWire) : (s.twoIdle t).recovery = none := by
  unfold Part.twoIdle
  split <;> rfl

theorem Part.portsTakeUp_twoAt {s : Part} {q : TwoIx} (h : (s.twoAt q).state = .idle) :
    s.portsTakeUp.twoAt q = s.twoIdle (s.twoAt q) :=
  (Vector.getElem_map _ _).trans (if_pos h)

theorem Part.portsTakeUp_fourAt {s : Part} {q : FourIx} (h : (s.fourAt q).state = .idle) :
    s.portsTakeUp.fourAt q = s.fourIdle (s.fourAt q) :=
  (Vector.getElem_map _ _).trans (if_pos h)

/-- A port that takes up its state has an attempt in progress if it had one. -/
theorem Part.portsTakeUp_attemptInProgress (s : Part) : s.portsTakeUp.attemptInProgress = s.attemptInProgress := by
  have htwo : TwoWire.busy ∘ (fun t => if t.state = .idle then s.twoIdle t else t) = TwoWire.busy := by
    funext t
    by_cases h : t.state = .idle
    · have hidle : t.busy = false := by rw [TwoWire.busy, h]
      simp [h, hidle, Part.twoIdle_busy]
    · simp [h]
  have hfour : FourWire.busy ∘ (fun t => if t.state = .idle then s.fourIdle t else t) = FourWire.busy := by
    funext t
    by_cases h : t.state = .idle
    · have hidle : t.busy = false := by rw [FourWire.busy, h]
      simp [h, hidle, Part.fourIdle_busy]
    · simp [h]
  simp only [Part.attemptInProgress, Part.portsTakeUp, Vector.toList_map, List.any_map, htwo, hfour]

/-- A four-wire port whose SENSE is asserted takes up YIELDED in a live run state, its hold timer started (R118). -/
theorem Part.fourIdle_live {s : Part} {h : Header} (hlive : s.run.state.live = true) (hh : s.intake.header = some h) {t : FourWire}
    (hsense : t.sense = true) :
    s.fourIdle t = { t with state := .yielded, holdTimer := some (s.time.count + BitVec.ofNat 32 (1000 * h.holdLimit)) } := by
  rw [Part.fourIdle, if_pos (by simp [hsense, hlive]), Part.holdExpiry, hh]
  rfl

/-! ### The end of attach (R172) -/

/-- The part as it enters RUNNING at the end of attach (R172, step 3). -/
def Part.enteringRun (s : Part) : Part :=
  Part.tell { s.attachClear with run := { s.run with state := .running, attach := none, stopHeld := false } } .runState

/-- The same with its IDLE ports taken up, before the sweep begins or a held STOP is taken. -/
def Part.attached (s : Part) : Part := s.enteringRun.portsTakeUp

/-- The words attach writes are cleared whole, and the dropped-write counter with its mirror, unless that was zeroed before (R158). -/
theorem Part.attached_cleared {s : Part} (hmirror : s.host.mirrorZeroed = false) :
    s.attached.rep.mem = s.rep.mem.attachClear (fun _ => true) ∧ s.attached.host.dropped = 0#16 := by
  simp only [Part.attached, Part.enteringRun, Part.portsTakeUp, Part.tell_rep, Part.tell_host, Reports.setLatch, Part.attachClear,
    hmirror, Bool.false_and, Bool.not_false, Bool.false_eq_true, if_false, and_self]

/-- An IDLE two-wire port takes up HELD where its view is BUSY (R89). -/
theorem Part.attached_twoAt {s : Part} {h : Header} (hh : s.intake.header = some h) {q : TwoIx} (hidle : (s.twoAt q).state = .idle) :
    s.attached.twoAt q =
      if (s.twoAt q).viewBusy then
        { s.twoAt q with state := .held, holdTimer := some (s.time.count + BitVec.ofNat 32 (1000 * h.holdLimit)) }
      else { s.twoAt q with state := .idle, holdTimer := none } := by
  refine (Part.portsTakeUp_twoAt (s := s.enteringRun) hidle).trans ?_
  split
  next hview => exact Part.twoIdle_live (s := s.enteringRun) rfl hh hview
  next hview => exact Part.twoIdle_idle (Or.inl (Bool.eq_false_iff.mpr hview))

/-- An IDLE four-wire port takes up YIELDED where its SENSE is asserted (R118). -/
theorem Part.attached_fourAt {s : Part} {h : Header} (hh : s.intake.header = some h) {q : FourIx}
    (hidle : (s.fourAt q).state = .idle) :
    s.attached.fourAt q =
      if (s.fourAt q).sense then
        { s.fourAt q with state := .yielded, holdTimer := some (s.time.count + BitVec.ofNat 32 (1000 * h.holdLimit)) }
      else { s.fourAt q with state := .idle, holdTimer := none } := by
  refine (Part.portsTakeUp_fourAt (s := s.enteringRun) hidle).trans ?_
  split
  next hsense => exact Part.fourIdle_live (s := s.enteringRun) rfl hh hsense
  next hsense => exact Part.fourIdle_of_not_sense (Bool.eq_false_iff.mpr hsense) s.enteringRun

/-- With both data lines high no line check is left, and attach ends with the clearing (R107, R172). -/
theorem Part.clearingEnd_high {s : Part} (hstate : s.run.state = .attaching) (hattach : s.run.attach = some .clearing)
    (hcheck : ∀ q : TwoIx, (s.twoAt q).inAttachCheck = false) :
    s.clearingEnd true true = if s.run.stopHeld then s.attached.quiesce else s.attached.beginSweep := by
  have hclearing : s.inClearing = true := by rw [Part.inClearing, hattach]; rfl
  have hnone : s.two.toList.any TwoWire.inAttachCheck = false := by
    refine List.any_eq_false.mpr (fun t ht => ?_)
    obtain ⟨i, hi, rfl⟩ := List.getElem_of_mem ht
    have hport : s.two.toList[i] = s.twoAt ⟨i, by simpa using hi⟩ := Vector.getElem_toList _
    simp [hport, hcheck]
  have hdone : s.attachClear.run.attach = some .lineCheck ∧ (!s.attachClear.two.toList.any TwoWire.inAttachCheck) = true :=
    ⟨rfl, by rw [Bool.not_eq_true']; exact hnone⟩
  rw [Part.clearingEnd, if_pos ⟨hstate, hclearing⟩]
  exact if_pos hdone

/-- What neither the beginning of a sweep nor the entry into QUIESCING or STOPPED changes of a part that has ended its attach. -/
structure EntersKept (u t : Part) : Prop where
  mem : ∀ a : Nat, ¬(0x0040 ≤ a ∧ a < 0x0044) → t.rep.mem.get a = u.rep.mem.get a
  counts : t.rep.appendCount = u.rep.appendCount ∧ t.rep.logLost = u.rep.logLost ∧ t.rep.done = u.rep.done
  host : t.host = u.host
  latch : u.rep.latch .runState = true → t.rep.latch .runState = true
  attach : t.run.attach = u.run.attach ∧ t.run.stopHeld = u.run.stopHeld
  two : ∀ q : TwoIx, (u.twoAt q).recovery = none → t.twoAt q = u.twoAt q
  four : ∀ q : FourIx, t.fourAt q = u.fourAt q

theorem beginSweep_entersKept {u : Part} (hm : u.rep.mem.wf = true) : EntersKept u u.beginSweep := by
  rw [Part.beginSweep_eq]
  refine ⟨fun a ha => Memory.get_setWord_outside hm _ (by omega), ⟨rfl, rfl, rfl⟩, rfl, fun h => ?_, ⟨rfl, rfl⟩, fun q hq => ?_,
    fun _ => rfl⟩
  · unfold Reports.latch at h ⊢
    simp only
    split
    · exact h
    · simp [h]
  · exact (Vector.getElem_map _ _).trans (TwoWire.noteLimit_of_none hq _ _)

theorem tryStop_entersKept (u : Part) : EntersKept u u.tryStop := by
  unfold Part.tryStop
  split
  · exact ⟨fun _ _ => rfl, ⟨rfl, rfl, rfl⟩, rfl, fun _ => Reports.latch_setLatch_self _ _, ⟨rfl, rfl⟩, fun _ _ => rfl,
      fun _ => rfl⟩
  · exact ⟨fun _ _ => rfl, ⟨rfl, rfl, rfl⟩, rfl, id, ⟨rfl, rfl⟩, fun _ _ => rfl, fun _ => rfl⟩

theorem quiesce_entersKept (u : Part) : EntersKept u u.quiesce :=
  have h := tryStop_entersKept { u with run := { u.run with state := .quiescing }, intake := { u.intake with timer := none } }
  ⟨h.mem, h.counts, h.host, h.latch, h.attach, h.two, h.four⟩

/-- A STOP with neither an attempt nor a visit in progress leads to STOPPED at once (R168, R173). -/
theorem Part.quiesce_stops {u : Part} (hattempt : u.attemptInProgress = false) (hpos : u.intake.pos = none) :
    u.quiesce.run.state = .stopped ∧ u.quiesce.intake.pos = none := by
  generalize hv : ({ u with run := { u.run with state := .quiescing }, intake := { u.intake with timer := none } } : Part) = v
  have hgo : (v.run.state == .quiescing && !v.attemptInProgress && v.intake.pos.isNone) = true := by
    have hv' : v.attemptInProgress = false := by rw [← hv]; exact hattempt
    rw [hv', ← hv]
    simp [hpos]
  rw [Part.quiesce, hv, Part.tryStop, if_pos hgo]
  exact ⟨rfl, by rw [← hv]; exact hpos⟩

/-- Whether a sweep begins or a held STOP is taken, what attach has written stands. -/
theorem Part.clearingEnd_entersKept {s : Part} (hm : s.rep.mem.wf = true) (hmirror : s.host.mirrorZeroed = false)
    (hend : s.clearingEnd true true = if s.run.stopHeld then s.attached.quiesce else s.attached.beginSweep) :
    EntersKept s.attached (s.clearingEnd true true) := by
  rw [hend]
  split
  · exact quiesce_entersKept _
  · exact beginSweep_entersKept (by rw [(Part.attached_cleared hmirror).1]; exact Memory.wf_attachClear hm _)

/-- Settles O17: the part with its attach ended, and then the sweep or the STOP that was held. -/
theorem attachClearsReportsAndRuns : Obligations.AttachClearsReportsAndRuns := by
  intro s hm hstate hattach hmirror hcheck
  have hend := Part.clearingEnd_high hstate hattach hcheck
  have hkept := Part.clearingEnd_entersKept hm hmirror hend
  obtain ⟨hmem, hdropped⟩ := Part.attached_cleared hmirror
  obtain ⟨happend, hlost, hdone⟩ := hkept.counts
  obtain ⟨hnoAttach, hnoStop⟩ := hkept.attach
  have hlatch : s.part.attached.rep.latch .runState = true := Reports.latch_setLatch_self _ _
  refine ⟨{ s with part := s.part.clearingEnd true true }, rfl, fun a ha => ?_, happend, hlost, hdone,
    (congrArg HostPort.dropped hkept.host).trans hdropped, hkept.latch hlatch, hnoAttach, hnoStop, fun hheld => ?_,
    fun hheld hattempt hpos => ?_, fun h hh => ⟨fun q hidle => ?_, fun q hidle => ?_⟩⟩
  · rw [hkept.mem a ha, hmem, Memory.get_attachClear hm]
  · simp only [hend, hheld, Bool.false_eq_true, if_false, Part.beginSweep_eq]
    exact ⟨rfl, trivial⟩
  · simp only [hend, hheld, if_true]
    exact Part.quiesce_stops ((Part.portsTakeUp_attemptInProgress _).trans hattempt) hpos
  · have hrecovery : (s.part.attached.twoAt q).recovery = none := by
      rw [Part.attached, Part.portsTakeUp_twoAt (s := s.part.enteringRun) hidle, Part.twoIdle_recovery]
    exact (hkept.two q hrecovery).trans (Part.attached_twoAt hh hidle)
  · exact (hkept.four q).trans (Part.attached_fourAt hh hidle)

end Sys2Proof.Machine
end

section
/-! The SENSE input of a four-wire port: the yield of an IDLE port, the end of a finished attempt, and the contention in phases SELECT and
DATA (R118 to R120, R123). -/

namespace Sys2Proof.Machine

/-! ### The input as the part reads it (R118) -/

theorem Part.setFour_setFour (s : Part) (q : FourIx) (t u : FourWire) : (s.setFour q t).setFour q u = s.setFour q u := by
  simp only [Part.setFour, Vector.set_set]

theorem Part.setSense_setFour (s : Part) (q : FourIx) (sense : Bool) (u : FourWire) :
    (s.setSense q sense).setFour q u = s.setFour q u := s.setFour_setFour q _ u

theorem Part.setSense_fourAt (s : Part) (q : FourIx) (sense : Bool) :
    (s.setSense q sense).fourAt q = { s.fourAt q with sense := sense } := by
  rw [Part.setSense, Part.setFour_fourAt, if_pos rfl]

/-- What a port takes up after an attempt or a change of SENSE depends on the run state, the clock and the header, not on the ports. -/
theorem Part.setSense_fourIdle (s : Part) (q : FourIx) (sense : Bool) (t : FourWire) : (s.setSense q sense).fourIdle t = s.fourIdle t :=
  rfl

/-- In a run state that is not live a port takes up IDLE whatever its SENSE (R118). -/
theorem Part.fourIdle_notLive {s : Part} (hlive : s.run.state.live = false) (t : FourWire) :
    s.fourIdle t = { t with state := .idle, holdTimer := none } := by
  rw [Part.fourIdle, if_neg (by simp [hlive])]

/-! ### An assertion of SENSE by the state of the port (R118, R119) -/

section
variable {s : Part} {q : FourIx} (hreset : s.host.resetAsserted = false) (hsense : (s.fourAt q).sense = false) (pos : SensePos)
  (rx : List Byte) (levels : BitVec 3)
include hreset hsense

/-- An IDLE port takes up IDLE or YIELDED by the new input. -/
theorem Part.senseAsserted_idle (hidle : (s.fourAt q).state = .idle) :
    s.senseAsserted q pos rx levels = s.setFour q (s.fourIdle { s.fourAt q with sense := true }) := by
  rw [← Part.setSense_fourAt, ← Part.setSense_fourIdle s q true, ← Part.setSense_setFour s q true]
  simp only [Part.senseAsserted, hsense, hreset, hidle, Bool.false_eq_true, if_false]

/-- A FENCED port has its input read alone. -/
theorem Part.senseAsserted_fenced (hfenced : (s.fourAt q).state = .fenced) : s.senseAsserted q pos rx levels = s.setSense q true := by
  simp only [Part.senseAsserted, hsense, hreset, hfenced, Bool.false_eq_true, if_false]

/-- An ACTIVE port has its attempt ended, where the attempt has the position. -/
theorem Part.senseAsserted_active {phase : FourPhase} {a : Attempt} {t : Part} (hactive : (s.fourAt q).state = .active phase a)
    (hend : (s.setSense q true).senseActive q phase a pos rx levels = some t) : s.senseAsserted q pos rx levels = t := by
  simp only [Part.senseAsserted, hsense, hreset, hactive, hend, Bool.false_eq_true, if_false, Option.getD_some]

end

/-! ### A deassertion of SENSE (R118) -/

theorem Part.senseDeasserted_yielded {s : Part} {q : FourIx} (h : (s.fourAt q).state = .yielded) :
    s.senseDeasserted q = s.setFour q { s.fourAt q with sense := false, state := .idle, holdTimer := none } := by
  simp only [Part.senseDeasserted, h]

theorem Part.senseDeasserted_notYielded {s : Part} {q : FourIx} (h : (s.fourAt q).state ≠ .yielded) :
    s.senseDeasserted q = s.setSense q false := by
  unfold Part.senseDeasserted
  simp only
  split
  · rename_i hyielded
    exact absurd hyielded h
  all_goals rfl

/-! ### An attempt in phase DATA (R117, R119) -/

theorem Part.fourCourse_data {s : Part} {q : FourIx} {a : Attempt} {c : Context} (hstate : (s.fourAt q).state = .active .data a)
    (hctx : s.ctx a.card = some c) : s.fourCourse q = some { attempt := a, ctx := c, slots := c.fourSlots a.entry } := by
  simp [Part.fourCourse, hstate, hctx]

/-- The attempt goes on while SENSE is read. -/
theorem Part.setSense_fourCourse {s : Part} {q : FourIx} {a : Attempt} {c : Context} (hstate : (s.fourAt q).state = .active .data a)
    (hctx : s.ctx a.card = some c) (sense : Bool) :
    (s.setSense q sense).fourCourse q = some { attempt := a, ctx := c, slots := c.fourSlots a.entry } :=
  Part.fourCourse_data (by rw [Part.setSense_fourAt]; exact hstate) hctx

/-- An attempt whose data read are complete has its end (R117). -/
theorem Part.fourFinished_eq_some_fourDone {s : Part} {q : FourIx} {a : Attempt} {c : Context} {data : List Byte}
    (hcourse : s.fourCourse q = some { attempt := a, ctx := c, slots := c.fourSlots a.entry }) (hdata : data.length = c.readTotal) :
    s.fourFinished q data = some (s.fourDone q data) := by
  have hcount : data.length = readCount (c.fourSlots a.entry) := hdata.trans (readCount_fourSlots c a.entry).symm
  simp only [Part.fourDone, Part.fourFinished, hcourse, if_pos hcount, Option.getD_some]

/-- A finished attempt ends as DONE would end it with SENSE asserted (R119; log 33). -/
theorem Part.senseAsserted_afterLastBit {s : Part} {q : FourIx} {a : Attempt} {c : Context} {rx : List Byte}
    (hreset : s.host.resetAsserted = false) (hsense : (s.fourAt q).sense = false) (hstate : (s.fourAt q).state = .active .data a)
    (hctx : s.ctx a.card = some c) (hdata : rx.length = c.readTotal) (levels : BitVec 3) :
    s.senseAsserted q .afterLastBit rx levels = (s.setSense q true).fourDone q rx :=
  Part.senseAsserted_active hreset hsense _ rx levels hstate
    (Part.fourFinished_eq_some_fourDone (Part.setSense_fourCourse hstate hctx true) hdata)

/-! ### A contention (R119, R120, R123) -/

/-- A port on which an attempt has met a contention, in RUNNING: YIELDED with its hold timer started, the select, if it was asserted,
deasserted now. -/
def FourWire.contended (t : FourWire) (now : Time) (h : Header) (asserted : Bool) (wire : List BusItem) : FourWire :=
  { t with
    state := .yielded, sense := true, holdTimer := some (now + BitVec.ofNat 32 (1000 * h.holdLimit))
    lastDeselect := if asserted then now else t.lastDeselect, wire := wire }

/-- The levels of a port with SENSE asserted (log 41). -/
theorem fourLevels_high (levels : BitVec 3) : fourLevels levels true = levels.setWidth 8 ||| 0x08#8 := rfl

/-- Where a contention in phase SELECT falls. -/
def contendedSelectPoint (a : Attempt) (levels : BitVec 3) : BusPoint :=
  { BusPoint.absent with phase := .select, lastAddress := byteOf a.entry.address, levels := levels.setWidth 8 ||| 0x08#8 }

/-- The traffic of a contention in phase SELECT. -/
def contendedSelectWire (t : FourWire) (asserted : Bool) : List BusItem :=
  t.wire ++ if asserted then [.released, .deselect] else [.released]

/-- The traffic of a contention in phase DATA: the bytes before it, then the lines released and the select deasserted. -/
def contendedDataWire (a : Attempt) (c : Context) (b : Before) (rx : List Byte) : List BusItem :=
  fourTrace a.entry (c.fourSlots a.entry) (crossed b.complete rx []) ++ [.released, .deselect]

theorem contendedDataWire_end (a : Attempt) (c : Context) (b : Before) (rx : List Byte) :
    (contendedDataWire a c b rx).drop ((contendedDataWire a c b rx).length - 2) = [.released, .deselect] := by
  simp [contendedDataWire]

section
variable {s : Part} {q : FourIx} {a : Attempt} {h : Header} (hrun : s.run.state = .running) (hh : s.intake.header = some h)
include hrun hh

/-- In RUNNING the port takes up YIELDED after a contention. -/
theorem Part.fourIdle_contended (asserted : Bool) (wire : List BusItem) :
    s.fourIdle { s.fourAt q with
        sense := true, lastDeselect := if asserted then s.now else (s.fourAt q).lastDeselect, wire := wire } =
      (s.fourAt q).contended s.time.count h asserted wire :=
  Part.fourIdle_live (by rw [hrun]; rfl) hh rfl

/-- An attempt that has driven its select ends on a port that yields. -/
theorem Part.endByDeselect_contended (point : BusPoint) (wire : List BusItem) :
    (s.setSense q true).endByDeselect q a .contention point wire =
      (s.setFour q ((s.fourAt q).contended s.time.count h true wire)).attemptEnded (fourPort q) a .contention s.now point := by
  rw [Part.endByDeselect, Part.setSense_setFour, Part.setSense_fourIdle, Part.setSense_fourAt,
    ← Part.fourIdle_contended hrun hh true wire]
  rfl

/-- A contention in phase SELECT ends the attempt, which starts now if its select was still to be asserted. -/
theorem Part.contendSelect_eq (asserted : Bool) (levels : BitVec 3) :
    (s.setSense q true).contendSelect q asserted a levels =
      (s.setFour q ((s.fourAt q).contended s.time.count h asserted (contendedSelectWire (s.fourAt q) asserted))).attemptEnded
        (fourPort q) { a with start := if asserted then a.start else some s.now } .contention s.now (contendedSelectPoint a levels) := by
  cases asserted with
  | true =>
    rw [← Part.endByDeselect_contended hrun hh, Part.contendSelect, Part.setSense_fourAt, fourLevels_high]
    rfl
  | false =>
    rw [← Part.fourIdle_contended hrun hh, Part.contendSelect, if_neg Bool.false_ne_true, Part.setSense_setFour,
      Part.setSense_fourIdle, Part.setSense_fourAt, fourLevels_high]
    rfl

/-- A contention in phase DATA ends the attempt in the byte given. -/
theorem Part.contendData_eq {c : Context} {leg i : Nat} {rx : List Byte} {b : Before} (hstate : (s.fourAt q).state = .active .data a)
    (hctx : s.ctx a.card = some c) (hloc : locateWith (c.fourSlots a.entry) c.legs.length (.data leg i) rx = some b)
    (levels : BitVec 3) :
    (s.setSense q true).contendData q leg i rx levels =
      some ((s.setFour q ((s.fourAt q).contended s.time.count h true (contendedDataWire a c b rx))).attemptEnded (fourPort q) a
        .contention s.now (pointAt (.data leg i) c.legs.length (byteOf a.entry.address) (lastByte (crossed b.complete rx []))
          (levels.setWidth 8 ||| 0x08#8))) := by
  simp only [Part.contendData, Part.setSense_fourCourse hstate hctx, hloc, fourLevels_high]
  rw [← Part.endByDeselect_contended hrun hh]
  rfl

end

/-- The part after a contention, with the record marked YIELDED asked for (R119, R123). -/
def Part.contended (s : Part) (q : FourIx) (a : Attempt) (c : Context) (t : FourWire) (p : BusPoint) : Part :=
  (s.setFour q t).request
    (s.errorRecord .contention (fourPort q) a c .yielded .none p.phase p.leg p.byteIndex p.lastAddress p.lastByte p.levels)

/-- A contention below the yield limit leaves the current work WAITING again (R60, R120). -/
theorem Part.contention_yields {s : Part} {a : Attempt} {started : Option Time} {start : Time} {c : Context} {r : Resolution}
    (hrun : s.run.state = .running) (hstart : started = some start) (hctx : s.ctx a.card = some c) (hend : c.pendingEnd = .none)
    (htally : c.yieldTally + 1 < 16) {q : FourIx} {t : FourWire} {p : BusPoint} (hr : (s.contended q a c t p).resolve c.device = .ok r) :
    (s.setFour q t).attemptEnded (fourPort q) { a with start := started } .contention s.now p =
      (s.contended q a c t p).setCtx a.card (some
        (({ c with last := some (s.endedNow a start), yieldTally := c.yieldTally + 1 } : Context).placed r none)) :=
  Part.attemptEnded_yields (s := s.setFour q t) (a := { a with start := started }) hrun hstart hctx rfl rfl hend htally (fourPort q) p
    hr

/-! ### The obligation -/

theorem exec_senseAssertion {s : State} {q : FourIx} {pos : SensePos} {rx : List Byte} {levels : BitVec 3} {t : Part}
    (h : s.part.senseAsserted q pos rx levels = t) : exec (.senseAssertion q pos rx levels) s = .next { s with part := t } :=
  next_congr h

theorem exec_senseDeassertion {s : State} {q : FourIx} {t : Part} (h : s.part.senseDeasserted q = t) :
    exec (.senseDeassertion q) s = .next { s with part := t } := next_congr h

/-- Settles O49: SENSE on a port that carries out no attempt and after the last bit, and the contention in phases SELECT and DATA. -/
theorem senseYieldsOrContends : Obligations.SenseYieldsOrContends := by
  refine ⟨?_, ?_, ?_⟩
  · intro s q rx levels hreset t live
    refine ⟨?_, ?_, ?_, fun hyielded => exec_senseDeassertion (Part.senseDeasserted_yielded hyielded),
      fun hnot => exec_senseDeassertion (Part.senseDeasserted_notYielded hnot)⟩
    · intro pos h hsense hidle hlive hh
      exact exec_senseAssertion ((Part.senseAsserted_idle hreset hsense pos rx levels hidle).trans
        (congrArg (s.part.setFour q) (Part.fourIdle_live ((RunState.live_iff _).mpr hlive) hh rfl)))
    · rintro pos hsense (hfenced | ⟨hidle, htimer, hnot⟩)
      · exact exec_senseAssertion (Part.senseAsserted_fenced hreset hsense pos rx levels hfenced)
      · have hlive : s.part.run.state.live = false := Bool.eq_false_iff.mpr (mt (RunState.live_iff _).mp hnot)
        have hsame : s.part.fourIdle { t with sense := true } = { t with sense := true } := by
          rw [Part.fourIdle_notLive hlive, ← hidle, ← htimer]
        exact exec_senseAssertion ((Part.senseAsserted_idle hreset hsense pos rx levels hidle).trans (congrArg (s.part.setFour q) hsame))
    · intro a c hsense hstate hctx hdata
      exact (exec_senseAssertion (Part.senseAsserted_afterLastBit hreset hsense hstate hctx hdata levels)).trans
        (exec_fourWireDone q rx { s with part := s.part.setSense q true }).symm
  · intro s q a asserted start c rx levels h r hreset hrun hsense hstate hstart hctx hend htally hh now
    have hstarted : (if asserted then a.start else some s.part.now) = some (if asserted then start else now) := by
      rw [hstart]
      cases asserted <;> rfl
    refine ⟨contendedSelectWire (s.part.fourAt q) asserted, fun hr => exec_senseAssertion ?_⟩
    exact (Part.senseAsserted_active hreset hsense .select rx levels hstate
      (congrArg some (Part.contendSelect_eq hrun hh asserted levels))).trans (Part.contention_yields hrun hstarted hctx hend htally hr)
  · intro s q a start c leg i rx levels b h r hreset hrun hsense hstate hstart hctx hloc hend htally hh now
    refine ⟨contendedDataWire a c b rx, contendedDataWire_end a c b rx, fun hr => exec_senseAssertion ?_⟩
    exact (Part.senseAsserted_active hreset hsense (.data leg i) rx levels hstate
      (Part.contendData_eq hrun hh hstate hctx hloc levels)).trans (Part.contention_yields hrun hstart hctx hend htally hr)

end Sys2Proof.Machine
end

section
/-! The fault log: what becomes of a request for a record, and the record that an append writes or loses (R141 to R147, Tables 12-13
and 12-14). -/

namespace Sys2Proof.Machine

/-! ### Requests for records (R141, R142) -/

theorem RunState.takesRequests_iff (state : RunState) :
    state.takesRequests = true ↔ state = .running ∨ state = .quiescing ∨ state = .stopped ∨ state = .attaching := by
  cases state <;> simp [RunState.takesRequests]

theorem FaultKind.attemptError_iff (kind : FaultKind) :
    kind.attemptError = true ↔ kind = .addressNack ∨ kind = .dataNack ∨ kind = .arbLost ∨ kind = .busError ∨
      kind = .stretchTimeout ∨ kind = .contention ∨ kind = .checkMismatch := by
  cases kind <;> simp [FaultKind.attemptError]

theorem LogLevel.keeps_iff (level : LogLevel) (f : FaultRecord) :
    level.keeps f = true ↔ level = .full ∨ ¬f.kind.attemptError = true ∨ f.disposition = .ending := by
  cases level <;> simp [LogLevel.keeps]

/-- A request that the run state or the log level does not keep leaves no trace. -/
theorem Reports.request_discarded (r : Reports) {state : RunState} {level : LogLevel} {f : FaultRecord}
    (h : ¬(state.takesRequests = true ∧ level.keeps f = true)) : r.request state level f = r := by
  unfold Reports.request
  by_cases htakes : state.takesRequests = true
  · have hlevel : level.keeps f = false := Bool.eq_false_iff.mpr fun hkeeps => h ⟨htakes, hkeeps⟩
    simp [htakes, hlevel]
  · simp [htakes]

/-- Settles O50: the run state and the log level decide whether the request is kept, the length of the queue whether it is lost. -/
theorem requestKeptLostOrDiscarded : Obligations.RequestKeptLostOrDiscarded := by
  intro r state level f takes error kept lost
  have hkept : state.takesRequests = true ∧ level.keeps f = true ↔ kept := by
    rw [RunState.takesRequests_iff, LogLevel.keeps_iff, FaultKind.attemptError_iff]
  refine ⟨fun hnot => r.request_discarded (mt hkept.mp hnot), fun h hroom => ?_, fun h hfull => ?_⟩
  all_goals obtain ⟨htakes, hkeeps⟩ := hkept.mpr h
  · rw [Reports.request_kept r htakes hkeeps, if_neg (Nat.not_le.mpr hroom)]
  · rw [Reports.request_kept r htakes hkeeps, if_pos hfull, Reports.loseRecord_eq, Half.saturatingAdd_one]

/-! ### Where the request at the head of the queue goes (R145, R147, R148) -/

theorem Part.appends_iff (s : Part) :
    s.appends = true ↔ s.run.state = .running ∨ s.run.state = .quiescing ∨ s.run.state = .stopped ∨
      (s.run.state = .attaching ∧ s.run.attach = some .lineCheck) := by
  rw [Part.appends, Bool.or_eq_true, RunState.live_iff, Bool.and_eq_true, beq_iff_eq, beq_iff_eq, or_assoc, or_assoc]

/-- An append takes the request at the head of the queue, where the Fault Log Unit takes requests. -/
theorem exec_append_of_appends {s : State} (h : s.part.appends = true) :
    exec .append s = .next { s with part := { s.part with rep := s.part.rep.takeRequest } } :=
  next_congr (if_pos h)

/-- Below the fill of 32 the request is appended. -/
theorem Reports.takeRequest_appended {r : Reports} {f : FaultRecord} {rest : List FaultRecord} (hqueue : r.queue = f :: rest)
    (hroom : (r.logMade - logTaken r.mem).toNat < 32) : r.takeRequest = { r with queue := rest }.appendRecord f := by
  simp only [Reports.takeRequest, hqueue, if_pos hroom]

/-- At the fill of 32 the request is lost. -/
theorem Reports.takeRequest_lost {r : Reports} {f : FaultRecord} {rest : List FaultRecord} (hqueue : r.queue = f :: rest)
    (hfull : 32 ≤ (r.logMade - logTaken r.mem).toNat) : r.takeRequest = { r with queue := rest }.loseRecord := by
  simp only [Reports.takeRequest, hqueue, if_neg (Nat.not_lt.mpr hfull)]

/-! ### The bytes of a record (Table 12-13) -/

/-- A memory shows record `f` under its sequence in the slot at `a`: every word stands. -/
def Memory.ShowsRecord (m : Memory) (a : Nat) (f : FaultRecord) (sequence : Word) : Prop :=
  ∀ i : Nat, i < 16 → m.word (a + 4 * i) = (f.words sequence).getD i 0#32

/-- From the levels to the closing sequence a record is zero. -/
theorem FaultRecord.words_spare (f : FaultRecord) (sequence : Word) {k : Nat} (hfirst : 23 ≤ k) (hlast : k < 60) :
    ((f.words sequence).getD (k / 4) 0#32).byte (k % 4) = 0x00#8 := by
  by_cases hlevels : k = 23
  · subst hlevels
    exact Word.byte_three_ofBytes _ _ _ _
  · have hword : (f.words sequence).getD (k / 4) 0#32 = 0#32 := by
      obtain ⟨hlow, hhigh⟩ : 6 ≤ k / 4 ∧ k / 4 < 15 := by omega
      generalize k / 4 = i at hlow hhigh
      interval_cases i <;> rfl
    rw [hword, Word.byte_of_zero]

namespace Memory.ShowsRecord
variable {m : Memory} {a : Nat} {f : FaultRecord} {sequence : Word} (h : m.ShowsRecord a f sequence)
include h

theorem get {k : Nat} (hk : k < 64) : m.get (a + k) = ((f.words sequence).getD (k / 4) 0#32).byte (k % 4) := by
  have haddr : a + k = a + 4 * (k / 4) + k % 4 := by omega
  rw [haddr, Memory.get_eq_byte _ _ (Nat.mod_lt _ (by omega)), h _ (by omega)]

/-- What became of the attempt, and where: bytes 8 to 11. -/
theorem outcome :
    m.get (a + 8) = byteOf f.kind.code ∧ m.get (a + 9) = byteOf f.disposition.code ∧ m.get (a + 10) = byteOf f.result.code ∧
      m.get (a + 11) = byteOrFF (f.port.map Fin.val) :=
  ⟨(h.get (by decide)).trans (Word.byte_zero_ofBytes _ _ _ _), (h.get (by decide)).trans (Word.byte_one_ofBytes _ _ _ _),
    (h.get (by decide)).trans (Word.byte_two_ofBytes _ _ _ _), (h.get (by decide)).trans (Word.byte_three_ofBytes _ _ _ _)⟩

/-- The devices and the card: bytes 12 to 15. -/
theorem indices :
    m.get (a + 12) = byteOrFF (f.device.map Fin.val) ∧ m.get (a + 13) = byteOrFF (f.resolved.map Fin.val) ∧
      m.get (a + 14) = byteOrFF (f.card.map Fin.val) ∧ m.get (a + 15) = f.generation :=
  ⟨(h.get (by decide)).trans (Word.byte_zero_ofBytes _ _ _ _), (h.get (by decide)).trans (Word.byte_one_ofBytes _ _ _ _),
    (h.get (by decide)).trans (Word.byte_two_ofBytes _ _ _ _), (h.get (by decide)).trans (Word.byte_three_ofBytes _ _ _ _)⟩

/-- The place on the bus: bytes 16 to 19. -/
theorem place :
    m.get (a + 16) = byteOf f.attempt ∧ m.get (a + 17) = byteOf f.phase.code ∧ m.get (a + 18) = f.leg ∧
      m.get (a + 19) = f.byteIndex :=
  ⟨(h.get (by decide)).trans (Word.byte_zero_ofBytes _ _ _ _), (h.get (by decide)).trans (Word.byte_one_ofBytes _ _ _ _),
    (h.get (by decide)).trans (Word.byte_two_ofBytes _ _ _ _), (h.get (by decide)).trans (Word.byte_three_ofBytes _ _ _ _)⟩

/-- What was seen on the bus: bytes 20 to 22. -/
theorem seen : m.get (a + 20) = f.lastAddress ∧ m.get (a + 21) = f.lastByte ∧ m.get (a + 22) = f.levels :=
  ⟨(h.get (by decide)).trans (Word.byte_zero_ofBytes _ _ _ _), (h.get (by decide)).trans (Word.byte_one_ofBytes _ _ _ _),
    (h.get (by decide)).trans (Word.byte_two_ofBytes _ _ _ _)⟩

theorem spare (k : Nat) (hfirst : 23 ≤ k) (hlast : k < 60) : m.get (a + k) = 0x00#8 :=
  (h.get (by omega)).trans (f.words_spare sequence hfirst hlast)

end Memory.ShowsRecord

/-! ### The memory after an append (R145, R146) -/

/-- The slot that the next append writes. -/
def Reports.nextSlot (r : Reports) : Nat := 0x3600 + 64 * (r.appendCount.low.toNat % 32)

/-- The memory after an append: the record in its slot, then the made mirror. -/
def Reports.memAppended (r : Reports) (f : FaultRecord) : Memory :=
  (r.mem.setClosed r.nextSlot (f.words (r.appendCount + 1#32))).setWord 0x0048
    (Word.ofHalves (r.appendCount + 1#32).low r.logLost)

theorem Reports.appendRecord_eq (r : Reports) (f : FaultRecord) :
    r.appendRecord f =
      { r with mem := r.memAppended f, appendCount := r.appendCount + 1#32, cause := r.cause ||| 0x04#8 } := by
  unfold Reports.appendRecord Reports.memAppended Reports.nextSlot
  generalize f.words (r.appendCount + 1#32) = ws
  rfl

section
variable {r : Reports} (hm : r.mem.wf = true) (f : FaultRecord)
include hm

/-- The log mirror lies below every slot of the log, so the record stands. -/
theorem Reports.memAppended_record : (r.memAppended f).ShowsRecord r.nextSlot f (r.appendCount + 1#32) := by
  intro i hi
  have hslot : 0x3600 ≤ r.nextSlot := Nat.le_add_right _ _
  have hlength : i < (f.words (r.appendCount + 1#32)).length := hi
  rw [Reports.memAppended, Memory.word_setWord_outside (Memory.wf_setClosed hm _ _) _ (by omega), Memory.word_setClosed hm _ hlength,
    List.getD_eq_getElem _ _ hlength]

theorem Reports.memAppended_mirror :
    (r.memAppended f).word 0x0048 = Word.ofHalves (r.appendCount + 1#32).low r.logLost :=
  Memory.word_setWord (Memory.wf_setClosed hm _ _) _ _

/-- An append writes the slot and the log mirror alone. -/
theorem Reports.memAppended_outside {a : Nat} (hslot : ¬(r.nextSlot ≤ a ∧ a < r.nextSlot + 64))
    (hmirror : ¬(0x0048 ≤ a ∧ a < 0x004C)) : (r.memAppended f).get a = r.mem.get a := by
  have hlength : (f.words (r.appendCount + 1#32)).length = 16 := rfl
  rw [Reports.memAppended, Memory.get_setWord_outside (Memory.wf_setClosed hm _ _) _ (by omega),
    Memory.get_setClosed_outside hm (by omega) (by omega)]

end

/-! ### The obligation -/

/-- Settles O51: the fill decides between the record written in its slot and the record lost. -/
theorem appendWritesRecordOrLosesIt : Obligations.AppendWritesRecordOrLosesIt := by
  refine ⟨?_, rfl, rfl, rfl⟩
  intro s f rest hm hqueue hstate r made taken slot sequence
  have hexec := exec_append_of_appends (s.part.appends_iff.mpr hstate)
  refine ⟨fun hroom => ?_, fun hfull => ?_⟩
  · have hrecord : (r.memAppended f).ShowsRecord slot f sequence := Reports.memAppended_record hm f
    obtain ⟨hkind, hdisposition, hresult, hport⟩ := hrecord.outcome
    obtain ⟨hdevice, hresolved, hcard, hgeneration⟩ := hrecord.indices
    obtain ⟨hattempt, hphase, hleg, hbyte⟩ := hrecord.place
    obtain ⟨haddress, hlast, hlevels⟩ := hrecord.seen
    refine ⟨r.memAppended f, ?_, hrecord, hrecord 0 (by decide), hrecord 15 (by decide), hrecord 1 (by decide),
      ⟨hkind, hdisposition, hresult, hport.trans (by cases f.port <;> rfl), hdevice.trans (by cases f.device <;> rfl),
        hresolved.trans (by cases f.resolved <;> rfl), hcard.trans (by cases f.card <;> rfl), hgeneration, hattempt, hphase, hleg,
        hbyte, haddress, hlast, hlevels, hrecord.spare⟩,
      Reports.memAppended_mirror hm f, fun a hslot hmirror => Reports.memAppended_outside hm f hslot hmirror⟩
    rw [hexec, Reports.takeRequest_appended hqueue hroom, Reports.appendRecord_eq]
    rfl
  · intro lost
    rw [hexec, Reports.takeRequest_lost hqueue hfull, Reports.loseRecord_eq, Half.saturatingAdd_one]

end Sys2Proof.Machine
end

section
/-! The Attention Unit: host writes of CAUSE and ENABLE, IRQ, and the coalescing of sample notifications (R151 to R155). -/

namespace Sys2Proof.Machine

/-! ### Host accesses to a port that is ready (R162, R163) -/

/-- A ready port carries an access out at once. -/
theorem Part.hostAccess_ready {s : Part} (hready : s.notReady = false) (i : Instr) : s.hostAccess i = s.carryOut i :=
  if_neg (by rw [hready]; exact Bool.false_ne_true)

/-- Above the exchange memory a ready port answers a read with the register. -/
theorem Part.hostRead_register {s : Part} (hready : s.notReady = false) {offset : Nat} (habove : 0x8000 ≤ offset) :
    s.hostRead offset = some (s.readRegister offset) := by
  rw [Part.hostRead, if_neg (by rw [hready]; exact Bool.false_ne_true), if_neg (Nat.not_lt.mpr habove)]

theorem exec_causeWrite {s : State} (hready : s.part.notReady = false) (value : Word) (enables : BitVec 4) :
    exec (.causeWrite value enables) s = .next { s with part := s.part.report (fun r => r.writeCause value enables) } :=
  next_congr (Part.hostAccess_ready hready _)

theorem exec_enableWrite {s : State} (hready : s.part.notReady = false) (value : Word) (enables : BitVec 4) :
    exec (.enableWrite value enables) s = .next { s with part := s.part.report (fun r => r.writeEnable value enables) } :=
  next_congr (Part.hostAccess_ready hready _)

/-! ### CAUSE (R151, R155, R165) -/

/-- What a write of CAUSE holds in the byte of the latches: zeros where the byte is not enabled (R165). -/
def causeWritten (value : Word) (enables : BitVec 4) : Byte := if enables.getLsbD 0 then value.byte 0 else 0#8

/-- A write of CAUSE field by field. -/
theorem Reports.writeCause_eq (r : Reports) (value : Word) (enables : BitVec 4) :
    r.writeCause value enables =
      { r with
        cause := r.cause &&& ~~~causeWritten value enables
        tally := if (causeWritten value enables).getLsbD 1 then 0 else r.tally
        holdoffTimer := if (causeWritten value enables).getLsbD 1 then none else r.holdoffTimer } := by
  change (if (causeWritten value enables).getLsbD 1 = true then _ else _) = _
  cases (causeWritten value enables).getLsbD 1 with
  | true => rfl
  | false => rfl

/-- Settles O13: a ready port carries the write out, and the bit of SAMPLE in it decides on tally and timer. -/
theorem causeWriteClearsLatches : Obligations.CauseWriteClearsLatches := by
  intro s value enables hready w
  rw [exec_causeWrite hready, Part.report, Reports.writeCause_eq]
  rfl

/-! ### ENABLE and IRQ (R152, R165) -/

/-- A write of ENABLE changes the enable bits alone, and those only where their byte is enabled. -/
theorem Reports.writeEnable_eq (r : Reports) (value : Word) (enables : BitVec 4) :
    r.writeEnable value enables = { r with enable := if enables.getLsbD 0 then value.byte 0 else r.enable } := by
  unfold Reports.writeEnable
  cases enables.getLsbD 0 with
  | true => rfl
  | false => rfl

/-- IRQ is asserted exactly while a latch is set with its enable bit set. -/
theorem Reports.irq_iff (r : Reports) :
    r.irq = true ↔ ∃ i : Nat, i < 8 ∧ r.cause.getLsbD i = true ∧ r.enable.getLsbD i = true := by
  rw [Reports.irq, bne_iff_ne, ne_eq, BitVec.eq_of_getLsbD_eq_iff]
  simp

/-- Settles O14: the write, the read and the level of IRQ, one by one. -/
theorem enableWriteSetsBitsAndIrqFollows : Obligations.EnableWriteSetsBitsAndIrqFollows := by
  refine ⟨fun s value enables hready => ?_, fun s hready => ?_, fun s => s.part.rep.irq_iff⟩
  · rw [exec_enableWrite hready, Part.report, Reports.writeEnable_eq]
  · exact Part.hostRead_register hready (by decide)

/-! ### The expiry of the holdoff timer (R154) -/

/-- A latch that is set reads as set. -/
theorem Reports.latch_setLatch (r : Reports) (l : Latch) : (r.setLatch l).latch l = true := by
  have hmask : l.mask.getLsbD l.bit = true := by cases l <;> rfl
  rw [Reports.latch, Reports.setLatch, BitVec.getLsbD_or, hmask, Bool.or_true]

/-- A timer that is stopped, or whose time has not come, has not expired. -/
theorem Part.expired_of_notDue {s : Part} {timer : Option Time} (h : ∀ e, timer = some e → Time.atOrAfter s.time.count e = false) :
    s.expired timer = false := by
  cases timer with
  | none => rfl
  | some e => exact h e rfl

theorem exec_holdoffExpiry_due {s : State} {e : Time} (htimer : s.part.rep.holdoffTimer = some e)
    (hdue : Time.atOrAfter s.part.time.count e = true) :
    exec .holdoffExpiry s = .next { s with part := s.part.report Reports.holdoffExpired } :=
  next_congr (if_pos (s.part.expired_some htimer hdue))

theorem exec_holdoffExpiry_notDue {s : State}
    (h : ∀ e, s.part.rep.holdoffTimer = some e → Time.atOrAfter s.part.time.count e = false) : exec .holdoffExpiry s = .next s :=
  next_congr (if_neg (by rw [Part.expired_of_notDue h]; exact Bool.false_ne_true))

/-- A time less than half the range of the count ahead does not lie in the past. -/
theorem Time.not_atOrAfter_add {k : Nat} (hpos : 1 ≤ k) (hhalf : k ≤ 2 ^ 31) (now : Time) :
    Time.atOrAfter now (now + BitVec.ofNat 32 k) = false := by
  have hdiff : (now - (now + BitVec.ofNat 32 k)).toNat = 2 ^ 32 - k := by bv_omega
  rw [Time.atOrAfter, hdiff, decide_eq_false_iff_not]
  omega

/-! ### A sample told (R153) -/

section
variable {r : Reports} (hroom : r.tally < 255) {threshold holdoff : Nat} (now : Time)
include hroom

/-- A tally below 255 rises by 1. -/
theorem Reports.tally_rises : min 255 (r.tally + 1) = r.tally + 1 := Nat.min_eq_right hroom

/-- With SAMPLE set the tally alone changes. -/
theorem Reports.sampleTold_set (hset : r.latch .sample = true) :
    r.sampleTold threshold holdoff now = { r with tally := r.tally + 1 } := by
  rw [Reports.sampleTold, if_pos hset, Reports.tally_rises hroom]

/-- With SAMPLE clear, a batch that is full, or that no holdoff lets wait, sets it. -/
theorem Reports.sampleTold_full (hclear : r.latch .sample = false) (hfull : holdoff = 0 ∨ threshold ≤ r.tally + 1) :
    r.sampleTold threshold holdoff now = Reports.setLatch { r with tally := r.tally + 1, holdoffTimer := none } .sample := by
  rw [Reports.sampleTold, if_neg (by rw [hclear]; exact Bool.false_ne_true), Reports.tally_rises hroom]
  exact if_pos hfull

/-- With SAMPLE clear, a batch that is not full waits, its first sample having started the holdoff timer. -/
theorem Reports.sampleTold_waits (hclear : r.latch .sample = false) (hholdoff : holdoff ≠ 0)
    (hbelow : r.tally + 1 < threshold) :
    r.sampleTold threshold holdoff now =
      { r with
        tally := r.tally + 1
        holdoffTimer := if r.tally = 0 then some (now + BitVec.ofNat 32 holdoff) else r.holdoffTimer } := by
  rw [Reports.sampleTold, if_neg (by rw [hclear]; exact Bool.false_ne_true), Reports.tally_rises hroom]
  exact if_neg (by omega)

/-- A sample told after the expiry finds SAMPLE set and raises the tally alone (R154). -/
theorem Reports.sampleTold_holdoffExpired :
    r.holdoffExpired.sampleTold threshold holdoff now = { r.holdoffExpired with tally := r.tally + 1 } :=
  Reports.sampleTold_set (r := r.holdoffExpired) hroom now (Reports.latch_setLatch _ _)

end

/-! ### The obligation -/

/-- Settles O52: the expiry by its time, the two orders of an expiry and a sample told, and the three cases of a sample told. -/
theorem holdoffExpiryAndSamplesTold : Obligations.HoldoffExpiryAndSamplesTold := by
  refine ⟨⟨fun s e => exec_holdoffExpiry_due, fun s => exec_holdoffExpiry_notDue,
    fun now holdoff hpos hmax => Time.not_atOrAfter_add hpos (by omega) now,
    fun r threshold holdoff now => ⟨?_, fun hroom => ?_⟩⟩, ?_⟩
  · intro hclear hthreshold hroom
    rw [Reports.sampleTold_full hroom now hclear (.inr hthreshold)]
    exact ⟨Reports.latch_setLatch _ _, rfl⟩
  · rw [Reports.sampleTold_holdoffExpired hroom]
    exact ⟨Reports.latch_setLatch _ _, rfl⟩
  · intro r threshold holdoff now hroom t
    exact ⟨Reports.sampleTold_set hroom now, Reports.sampleTold_full hroom now,
      Reports.sampleTold_waits hroom now⟩

end Sys2Proof.Machine
end

section
/-! Changes that are confined to what the part may do of itself: they write report words alone, and leave the port as ready and Run
Control as halted as they were (R156, R162).  The rules for cards and the ends of attempts are such changes. -/

namespace Sys2Proof.Machine

/-! ### The addresses of report words (R156, Tables 10-1 and I-2) -/

theorem Memory.ownerOf_reportHeader {a : Nat} (hlow : 0x0040 ≤ a) (hhigh : a < 0x00C0) : Memory.ownerOf a = .report := by
  rw [Memory.ownerOf, if_neg (by omega), if_pos hhigh]

theorem Memory.ownerOf_log {a : Nat} (hlow : 0x3600 ≤ a) (hhigh : a < 0x3E00) : Memory.ownerOf a = .report := by
  rw [Memory.ownerOf, if_neg (by omega), if_neg (by omega), if_neg (by omega), if_neg (by omega), if_neg (by omega),
    if_neg (by omega), if_pos hhigh]

/-- Attach clears report words alone (R172). -/
theorem Memory.ownerOf_clearedByAttach {a : Nat} (h : Addr.clearedByAttach a = true) : Memory.ownerOf a = .report := by
  simp only [Addr.clearedByAttach, Bool.or_eq_true, Bool.and_eq_true, decide_eq_true_eq] at h
  rcases h with (⟨hlow, hhigh⟩ | ⟨hlow, hhigh⟩) | ⟨⟨hlow, hhigh⟩, hhalf⟩
  · exact Memory.ownerOf_reportHeader hlow hhigh
  · rw [Memory.ownerOf, if_neg (by omega), if_neg (by omega), if_neg (by omega), if_neg (by omega), if_pos hhigh]
  · rw [Memory.ownerOf, if_neg (by omega), if_neg (by omega), if_neg (by omega), if_neg (by omega), if_neg (by omega),
      if_pos hhigh, if_neg (by omega)]

theorem reportWord_reportHeader {a : Nat} (hlow : 0x0040 ≤ a) (hhigh : a + 4 ≤ 0x00C0) : ReportWord a :=
  fun _ hi => Memory.ownerOf_reportHeader (by omega) (by omega)

/-! ### Memories between which report words alone are written -/

/-- The canonical form is kept, and no posting or scratch byte changes (R156). -/
def Memory.ReportsAlone (m m' : Memory) : Prop :=
  m.wf = true → m'.wf = true ∧ ∀ a, Memory.ownerOf a ≠ .report → m'.get a = m.get a

namespace Memory.ReportsAlone

theorem refl (m : Memory) : m.ReportsAlone m := fun hm => ⟨hm, fun _ _ => rfl⟩

theorem trans {m m' m'' : Memory} (h : m.ReportsAlone m') (h' : m'.ReportsAlone m'') : m.ReportsAlone m'' := by
  intro hm
  obtain ⟨hwf, hget⟩ := h hm
  obtain ⟨hwf', hget'⟩ := h' hwf
  exact ⟨hwf', fun a ha => (hget' a ha).trans (hget a ha)⟩

theorem setWord (m : Memory) {a : Nat} (ha : ReportWord a) (w : Word) : m.ReportsAlone (m.setWord a w) := by
  refine fun hm => ⟨Memory.wf_setWord hm a w, fun b hb => Memory.get_setWord_outside hm w ?_⟩
  by_contra hinside
  obtain ⟨i, hi, rfl⟩ : ∃ i, i < 4 ∧ b = a + i := ⟨b - a, by omega, by omega⟩
  exact hb (ha i hi)

/-- A record is written in its slot of the log (R145, R146). -/
theorem setRecord (m : Memory) (k : Nat) (f : FaultRecord) (sequence : Word) :
    m.ReportsAlone (m.setClosed (Addr.record (k % 32)) (f.words sequence)) := by
  have hlength : (f.words sequence).length = 16 := rfl
  refine fun hm => ⟨Memory.wf_setClosed hm _ _, fun b hb => Memory.get_setClosed_outside hm (by omega) ?_⟩
  by_contra hinside
  rw [hlength, Addr.record] at hinside
  exact hb (Memory.ownerOf_log (by omega) (by omega))

theorem foldl {ι : Type} {f : Memory → ι → Memory} (hf : ∀ (m : Memory) (x : ι), m.ReportsAlone (f m x)) (xs : List ι) :
    ∀ m : Memory, m.ReportsAlone (xs.foldl f m) := by
  induction xs with
  | nil => exact refl
  | cons x xs ih => exact fun m => (hf m x).trans (ih _)

theorem attachClear (m : Memory) (p : Nat → Bool) : m.ReportsAlone (m.attachClear p) := by
  have hclear : m.ReportsAlone (m.clearWhere (fun a => Addr.clearedByAttach a && p (a / 4))) := by
    refine fun hm => ⟨Memory.wf_clearWhere _ hm, fun a ha => ?_⟩
    rw [Memory.get_clearWhere, if_neg]
    exact fun h => ha (Memory.ownerOf_clearedByAttach (Bool.and_eq_true_iff.mp h).1)
  refine hclear.trans (foldl (fun m' d => ?_) _ _)
  split
  · exact setWord m' (reportWord_status d) _
  · exact refl m'

end Memory.ReportsAlone

/-- A record lost is counted in the mirror (R141, R147). -/
theorem Reports.loseRecord_reportsAlone (r : Reports) : r.mem.ReportsAlone r.loseRecord.mem :=
  .setWord r.mem (reportWord_reportHeader (by decide) (by decide)) _

/-- A record appended is written in its slot and counted in the mirror (R145, R146). -/
theorem Reports.appendRecord_reportsAlone (r : Reports) (f : FaultRecord) : r.mem.ReportsAlone (r.appendRecord f).mem := by
  have hmirror : ReportWord 0x0048 := reportWord_reportHeader (by decide) (by decide)
  have hrecord : r.mem.ReportsAlone (r.mem.setClosed r.nextSlot (f.words (r.appendCount + 1#32))) :=
    .setRecord r.mem r.appendCount.low.toNat f _
  rw [Reports.appendRecord_eq]
  dsimp only
  exact hrecord.trans (.setWord _ hmirror _)

/-! ### Confined changes -/

/-- Run Control is in HALTED, with no attach in progress. -/
def RunControl.atRest (r : RunControl) : Prop := r.state = .halted ∧ r.attach = none

/-- The two conditions in which the port is not ready (R162). -/
def HostPort.holds (h : HostPort) : Bool × Bool := (h.resetAsserted, h.clearing)

/-- Report words alone are written, the port is held as it was, and Run Control at rest stays at rest. -/
structure Confined (s t : Part) : Prop where
  mem : s.rep.mem.ReportsAlone t.rep.mem
  holds : t.host.holds = s.host.holds
  rest : s.run.atRest → t.run.atRest

namespace Confined

/-- A change of neither memory, host port nor Run Control. -/
theorem of_same {s t : Part} (hmem : t.rep.mem = s.rep.mem) (hhost : t.host = s.host) (hrun : t.run = s.run) : Confined s t :=
  ⟨hmem ▸ .refl _, by rw [hhost], by rw [hrun]; exact id⟩

theorem refl (s : Part) : Confined s s := of_same rfl rfl rfl

theorem trans {s t u : Part} (h : Confined s t) (h' : Confined t u) : Confined s u :=
  ⟨h.mem.trans h'.mem, h'.holds.trans h.holds, fun hs => h'.rest (h.rest hs)⟩

/-- A change while Run Control is not at rest. -/
theorem of_busy {s t : Part} (hbusy : ¬ s.run.atRest) (hmem : s.rep.mem.ReportsAlone t.rep.mem) (hhost : t.host.holds = s.host.holds) :
    Confined s t := ⟨hmem, hhost, fun hs => absurd hs hbusy⟩

theorem report {s : Part} {f : Reports → Reports} (h : s.rep.mem.ReportsAlone (f s.rep).mem) : Confined s (s.report f) :=
  ⟨h, rfl, id⟩

theorem tell (s : Part) (l : Latch) : Confined s (s.tell l) := of_same rfl rfl rfl

/-- A request is kept, lost with its count written into the mirror, or discarded (R141). -/
theorem request (s : Part) (f : FaultRecord) : Confined s (s.request f) := by
  refine report ?_
  rcases s.rep.request_cases s.run.state s.logLevel f with h | ⟨h, _⟩ | h <;> rw [h]
  · exact .refl _
  · exact .refl _
  · exact Reports.loseRecord_reportsAlone _

/-- STOPPED is entered from QUIESCING alone (R173). -/
theorem tryStop (s : Part) : Confined s s.tryStop := by
  unfold Part.tryStop
  split
  · rename_i h
    have hstate : s.run.state = .quiescing := by
      simp only [Bool.and_eq_true, beq_iff_eq] at h
      exact h.1.1
    refine of_busy (fun hrest => ?_) (.refl _) rfl
    rw [hrest.1] at hstate
    cases hstate
  · exact refl s

/-- The rules for cards and what an attempt's outcome leads to are confined. -/
theorem closed : OutcomeClosed Always Confined where
  cards := fun _ =>
    { refl := refl
      trans := trans
      ctx := fun _ _ _ => of_same rfl rfl rfl
      word := fun _ _ w ha => report (.setWord _ ha w)
      latch := tell
      done := fun _ _ => of_same rfl rfl rfl
      request := request
      told := fun s threshold holdoff now => of_same (s.rep.sampleTold_frame threshold holdoff now).1 rfl rfl }
  dev := fun _ _ => of_same rfl rfl rfl
  stop := tryStop

theorem attemptEnded (s : Part) (port : PortIx) (a : Attempt) (o : AttemptOutcome) (stop : Time) (p : BusPoint) :
    Confined s (s.attemptEnded port a o stop p) :=
  (closed.attemptEnded always_debtLike s port a o stop p (fun n => dAt_always n s)).1

theorem finish (m : PassMode) (n : CardIx) (x : Part × Work) : Confined x.1 (Part.finish m n x) :=
  ((closed.cards n).finish always_debtLike m x (dAt_always n x.1)).1

theorem timedCommand (s : Part) (n : CardIx) (e : TimedEvent) : Confined s (s.timedCommand n e) :=
  ((closed.cards n).timedCommand always_debtLike s e (dAt_always n s)).1

theorem dueArrival (s : Part) (n : CardIx) : Confined s (s.dueArrival n) :=
  ((closed.cards n).dueArrival always_debtLike s (dAt_always n s)).1

theorem endInstance (s : Part) (n : CardIx) (c : Context) (code : ResultCode) (data : List Byte) (f : Fresh) :
    Confined s (s.endInstance n c code data f).1 :=
  ((closed.cards n).endInstance always_debtLike s code data f trivial).1

theorem endCard (s : Part) (n : CardIx) (c : Context) (state : ProgressState) (result : ResultCode) :
    Confined s (s.endCard n c state result) := ((closed.cards n).endCard s c state result).1

theorem endWord (s : Part) (n : CardIx) (w : Word) : Confined s (s.report (fun r => r.endWord n w)) := (closed.cards n).endWord s n w

theorem clearDone (s : Part) (n : CardIx) : Confined s (s.report (fun r => r.clearDone n)) := (closed.cards n).clearDone s n

theorem changeDevice (s : Part) (u : DeviceUnit) (d : DevIx) : Confined s (s.changeDevice u d) := closed.changeDevice s u d

theorem reresolveWhere (s : Part) (p : Context → Bool) : Confined s (s.reresolveWhere p) :=
  (reresolveWhere_carried closed.cards always_debtLike s p (fun n => dAt_always n s)).1

theorem failReadyList (s : Part) (p : PortIx) : Confined s (s.failReadyList p) :=
  (failReadyList_carried closed.cards always_debtLike s p (fun n => dAt_always n s)).1

/-- The fence of a port (R106, R121). -/
theorem fenceEffects (s : Part) (p : PortIx) : Confined s (s.fenceEffects p) := (tell s .port).trans (failReadyList _ p)

/-- Cards taken one after the other. -/
theorem foldl {f : Part → CardIx → Part} (hf : ∀ s n, Confined s (f s n)) (ns : List CardIx) : ∀ s, Confined s (ns.foldl f s) := by
  induction ns with
  | nil => exact refl
  | cons n ns ih => exact fun s => (hf s n).trans (ih _)

/-- An attempt's end after a change of its port. -/
theorem attemptEnded_setTwo (s : Part) (p : TwoIx) (t : TwoWire) (port : PortIx) (a : Attempt) (o : AttemptOutcome) (stop : Time)
    (point : BusPoint) : Confined s ((s.setTwo p t).attemptEnded port a o stop point) :=
  Confined.trans (t := s.setTwo p t) (of_same rfl rfl rfl) (attemptEnded _ port a o stop point)

theorem attemptEnded_setFour (s : Part) (q : FourIx) (t : FourWire) (port : PortIx) (a : Attempt) (o : AttemptOutcome) (stop : Time)
    (point : BusPoint) : Confined s ((s.setFour q t).attemptEnded port a o stop point) :=
  Confined.trans (t := s.setFour q t) (of_same rfl rfl rfl) (attemptEnded _ port a o stop point)

end Confined

end Sys2Proof.Machine
end

section
/-! The events of the ports, of the sweeps and of Run Control are confined: they write report words alone, and leave the port as ready and
Run Control as halted as they were (R156, R162). -/

namespace Sys2Proof.Machine.Confined

/-! ### Two-wire ports -/

theorem driveStart (s : Part) (p : TwoIx) (free : Measure) : Confined s (s.driveStart p free) := by
  unfold Part.driveStart
  simp only
  split
  · exact refl s
  · split <;> exact of_same rfl rfl rfl

theorem startSeen (s : Part) (p : TwoIx) : Confined s (s.startSeen p) := by
  unfold Part.startSeen
  simp only
  split
  · exact attemptEnded_setTwo s p _ _ _ _ _ _
  · split <;> exact of_same rfl rfl rfl

theorem busFree (s : Part) (p : TwoIx) (high : Measure) : Confined s (s.busFree p high) := by
  unfold Part.busFree
  simp only
  split <;> exact of_same rfl rfl rfl

theorem endByStop (s : Part) (p : TwoIx) (a : Attempt) (o : AttemptOutcome) (point : BusPoint) (wire : List BusItem) :
    Confined s (s.endByStop p a o point wire) := attemptEnded_setTwo s p _ _ _ _ _ _

theorem twoDone (s : Part) (p : TwoIx) (data : List Byte) : Confined s (s.twoDone p data) := by
  unfold Part.twoDone
  split
  · exact refl s
  · split
    · exact endByStop s p _ _ _ _
    · exact refl s

/-- A byte that is refused ends the attempt, if it is a byte of it. -/
theorem refusedByte (s : Part) (p : TwoIx) (o : AttemptOutcome) (pos : BusPos) (rx : List Byte) (levels : BitVec 2)
    (f : SlotKind → Option Byte) : Confined s (s.refusedByte p o pos rx levels f) := by
  unfold Part.refusedByte
  iterate 4
    split
    · exact refl s
  exact endByStop s p _ _ _ _

theorem wrongCheck (s : Part) (p : TwoIx) (pos : BusPos) (rx : List Byte) (got : Byte) (levels : BitVec 2) :
    Confined s (s.wrongCheck p pos rx got levels) := by
  unfold Part.wrongCheck
  iterate 3
    split
    · exact refl s
  split
  · exact endByStop s p _ _ _ _
  · exact refl s

theorem dataNack (s : Part) (p : TwoIx) (leg i : Nat) (rx : List Byte) (levels : BitVec 2) :
    Confined s (s.dataNack p leg i rx levels) := by
  unfold Part.dataNack
  split
  · exact refl s
  · split
    · exact refusedByte s p _ _ _ _ _
    · exact refl s

theorem checkMismatch (s : Part) (p : TwoIx) (leg : Nat) (rx : List Byte) (got : Option Byte) (levels : BitVec 2) :
    Confined s (s.checkMismatch p leg rx got levels) := by
  unfold Part.checkMismatch
  split
  · exact refl s
  · split
    · exact refusedByte s p _ _ _ _ _
    · exact wrongCheck s p _ _ _ _

theorem arbLost (s : Part) (p : TwoIx) (pos : BusPos) (rx : List Byte) (levels : BitVec 2) :
    Confined s (s.arbLost p pos rx levels) := by
  unfold Part.arbLost
  split
  · exact attemptEnded_setTwo s p _ _ _ _ _ _
  · iterate 2
      split
      · exact refl s
    split
    · exact attemptEnded_setTwo s p _ _ _ _ _ _
    · exact refl s

theorem busError (s : Part) (p : TwoIx) (pos : BusPos) (rx : List Byte) (isStop : Bool) :
    Confined s (s.busError p pos rx isStop) := by
  unfold Part.busError
  iterate 2
    split
    · exact refl s
  split
  · exact attemptEnded_setTwo s p _ _ _ _ _ _
  · exact refl s

theorem stretchTimeout (s : Part) (p : TwoIx) (pos : BusPos) (rx : List Byte) (low : Measure) (dataHigh : Bool) :
    Confined s (s.stretchTimeout p pos rx low dataHigh) := by
  unfold Part.stretchTimeout
  iterate 2
    split
    · exact refl s
  split <;> exact of_same rfl rfl rfl

/-- A port takes up FENCED with its record, and its ready list fails (R106). -/
theorem fenceTwo (s : Part) (p : TwoIx) (t : TwoWire) (f : FaultRecord) (port : PortIx) :
    Confined s (((s.setTwo p t).request f).fenceEffects port) :=
  Confined.trans (t := s.setTwo p t) (of_same rfl rfl rfl) ((request _ f).trans (fenceEffects _ port))

theorem holdExpired (s : Part) (p : TwoIx) (levels : BitVec 2) : Confined s (s.holdExpired p levels) := by
  unfold Part.holdExpired
  simp only
  split
  · exact fenceTwo s p _ _ _
  · exact refl s

/-! ### Four-wire ports -/

theorem selectAssert (s : Part) (q : FourIx) (deselected idle : Measure) : Confined s (s.selectAssert q deselected idle) := by
  unfold Part.selectAssert
  simp only
  split
  · split <;> exact of_same rfl rfl rfl
  all_goals exact refl s

theorem selectLeadEnd (s : Part) (q : FourIx) (lead : Measure) : Confined s (s.selectLeadEnd q lead) := by
  unfold Part.selectLeadEnd
  simp only
  split
  · split
    · split <;> exact of_same rfl rfl rfl
    · exact refl s
  all_goals exact refl s

theorem endByDeselect (s : Part) (q : FourIx) (a : Attempt) (o : AttemptOutcome) (point : BusPoint) (wire : List BusItem) :
    Confined s (s.endByDeselect q a o point wire) := attemptEnded_setFour s q _ _ _ _ _ _

theorem fourFinished {s t : Part} {q : FourIx} {data : List Byte} (h : s.fourFinished q data = some t) : Confined s t := by
  unfold Part.fourFinished at h
  split at h
  · cases h
  · split at h
    · cases h
      exact endByDeselect s q _ _ _ _
    · cases h

theorem fourDone (s : Part) (q : FourIx) (data : List Byte) : Confined s (s.fourDone q data) := by
  unfold Part.fourDone
  cases h : s.fourFinished q data with
  | none => exact refl s
  | some t => exact fourFinished h

theorem fourCheckMismatch (s : Part) (q : FourIx) (leg : Nat) (rx : List Byte) (got : Byte) (levels : BitVec 3) :
    Confined s (s.fourCheckMismatch q leg rx got levels) := by
  unfold Part.fourCheckMismatch
  iterate 4
    split
    · exact refl s
  split
  · exact endByDeselect s q _ _ _ _
  · exact refl s

theorem contendSelect (s : Part) (q : FourIx) (asserted : Bool) (a : Attempt) (levels : BitVec 3) :
    Confined s (s.contendSelect q asserted a levels) := by
  unfold Part.contendSelect
  simp only
  split
  · exact endByDeselect s q _ _ _ _
  · exact attemptEnded_setFour s q _ _ _ _ _ _

theorem contendData {s t : Part} {q : FourIx} {leg i : Nat} {rx : List Byte} {levels : BitVec 3}
    (h : s.contendData q leg i rx levels = some t) : Confined s t := by
  unfold Part.contendData at h
  split at h
  · cases h
  · split at h
    · cases h
    · cases h
      exact endByDeselect s q _ _ _ _

theorem senseActive {s t : Part} {q : FourIx} {phase : FourPhase} {a : Attempt} {pos : SensePos} {rx : List Byte}
    {levels : BitVec 3} (h : s.senseActive q phase a pos rx levels = some t) : Confined s t := by
  unfold Part.senseActive at h
  split at h
  · cases h
    exact contendSelect s q _ a levels
  · exact contendData h
  · exact fourFinished h
  · cases h

theorem senseAsserted (s : Part) (q : FourIx) (pos : SensePos) (rx : List Byte) (levels : BitVec 3) :
    Confined s (s.senseAsserted q pos rx levels) := by
  have hread : Confined s (s.setSense q true) := of_same rfl rfl rfl
  unfold Part.senseAsserted
  simp only
  split
  · exact refl s
  · split
    · exact hread
    · split
      · exact of_same rfl rfl rfl
      · exact hread
      · exact hread
      · rename_i phase a _
        cases h : (s.setSense q true).senseActive q phase a pos rx levels with
        | none => exact refl s
        | some t => exact hread.trans (senseActive h)

theorem senseDeasserted (s : Part) (q : FourIx) : Confined s (s.senseDeasserted q) := by
  unfold Part.senseDeasserted
  simp only
  split <;> exact of_same rfl rfl rfl

theorem senseHoldExpired (s : Part) (q : FourIx) (levels : BitVec 3) : Confined s (s.senseHoldExpired q levels) := by
  unfold Part.senseHoldExpired
  simp only
  split
  · exact Confined.trans (t := s.setFour q _) (of_same rfl rfl rfl) ((request _ _).trans (fenceEffects _ _))
  · exact refl s

/-! ### The arbiter's choice -/

theorem activate (s : Part) (p : PortIx) (a : Attempt) (c : Context) : Confined s (s.activate p a c) := by
  unfold Part.activate
  split <;> exact of_same rfl rfl rfl

theorem beginAttempt (s : Part) (p : PortIx) (n : CardIx) (c : Context) (r : Resolution) : Confined s (s.beginAttempt p n c r) := by
  unfold Part.beginAttempt
  simp only
  refine Confined.trans ?_ (activate _ p _ _)
  split
  · exact of_same rfl rfl rfl
  · exact Confined.trans (t := s.writeLive n _) (report (.setWord _ (reportWord_progress n (o := 0) (by omega)) _))
      (of_same rfl rfl rfl)

theorem carryOutChoice (s : Part) (p : PortIx) (x : Candidate) : Confined s (s.carryOutChoice p x) := by
  unfold Part.carryOutChoice
  split
  · exact (endInstance s x.card x.ctx _ [] .none).trans (finish _ _ _)
  · split
    · exact of_same rfl rfl rfl
    · exact beginAttempt s p _ _ _

theorem arbiterChoice (s : Part) (p : PortIx) : Confined s (s.arbiterChoice p) := by
  unfold Part.arbiterChoice
  split
  · split
    · exact refl s
    · exact carryOutChoice s p _
  · exact refl s

/-! ### Sweeps -/

/-- A sweep's beginning writes the header fault field (R25). -/
theorem beginSweep (s : Part) : Confined s s.beginSweep := by
  rw [Part.beginSweep_eq]
  exact ⟨.setWord _ (reportWord_reportHeader (by decide) (by decide)) _, rfl, id⟩

theorem nudge (s : Part) : Confined s s.nudge := by
  unfold Part.nudge
  split
  · split
    · exact beginSweep s
    · exact of_same rfl rfl rfl
  · exact refl s

theorem sweepTimerExpired (s : Part) : Confined s s.sweepTimerExpired := by
  unfold Part.sweepTimerExpired
  split
  · exact beginSweep s
  · exact refl s

/-- A sweep's end writes the sweep count (R22). -/
theorem completeSweep (s : Part) : Confined s s.completeSweep := by
  have hcount (intake : Intake) :
      Confined s { s with
        rep := { s.rep with mem := s.rep.mem.setWord Addr.sweepCount (s.rep.mem.word Addr.sweepCount + 1#32) }, intake := intake } :=
    ⟨.setWord _ (reportWord_reportHeader (by decide) (by decide)) _, rfl, id⟩
  unfold Part.completeSweep
  simp only
  split
  · exact (hcount _).trans (beginSweep _)
  · exact hcount _

theorem visitEnded (s : Part) (n : CardIx) : Confined s (s.visitEnded n) := by
  unfold Part.visitEnded
  split
  · exact Confined.trans (t := { s with intake := { s.intake with pos := none, pending := false } }) (of_same rfl rfl rfl)
      (tryStop _)
  · split
    · exact of_same rfl rfl rfl
    · exact completeSweep s

theorem endVisit (s : Part) (n : CardIx) : Confined s (s.endVisit n) := by
  unfold Part.endVisit
  split
  · exact visitEnded s n
  · exact refl s

/-! ### Cards in a visit -/

theorem freshFields (s : Part) (n : CardIx) (retried : Bool) : Confined s (s.freshFields n retried) := by
  unfold Part.freshFields
  split
  · exact refl s
  · exact (closed.cards n).newGeneration s n

theorem setWaiting (s : Part) (n : CardIx) (b : Option Bank) : Confined s (s.setWaiting n b) := of_same rfl rfl rfl

theorem endControl (s : Part) (n : CardIx) (g : Byte) (retried : Bool) (state : ProgressState) (result : ResultCode) :
    Confined s (s.endControl n g retried state result) :=
  (setWaiting s n none).trans ((freshFields _ n retried).trans (endWord _ n _))

theorem withdrawCard (s : Part) (n : CardIx) : Confined s (s.withdrawCard n) := by
  unfold Part.withdrawCard
  split
  · rename_i c _
    split
    · unfold Part.withdrawActive
      split
      · exact of_same rfl rfl rfl
      all_goals exact endCard s n c _ _
    · exact endCard s n c _ _
  · exact (endWord s n (bareWord (progressGeneration s.rep.mem n) .withdrawn .withdrawnByOrder)).trans (setWaiting _ n none)

theorem reject (s : Part) (n : CardIx) (g : Byte) (retried : Bool) (code : ResultCode) : Confined s (s.reject n g retried code) :=
  (request s (rejectedRecord s.now n g code)).trans
    ((setWaiting _ n none).trans ((freshFields _ n retried).trans (endWord _ n (bareWord g .rejected code))))

/-- A progress word written while its card is taken in (R39, R40). -/
theorem writeProgress (s : Part) (n : CardIx) (w : Word) : Confined s (s.report (fun r => r.writeProgress n w)) :=
  report (.setWord _ (reportWord_progress n (o := 0) (by omega)) w)

theorem takeTransfer (s : Part) (n : CardIx) (g : Byte) (retried : Bool) (kind : TransferKind) (d : DevIx) (r : Request) :
    Confined s (s.takeTransfer n g retried kind d r) := by
  unfold Part.takeTransfer
  split
  · have hgranted : Confined s ((s.setWaiting n none).setCtx n (some (s.newContext g kind d r))) := of_same rfl rfl rfl
    have hshown := hgranted.trans ((freshFields _ n retried).trans (writeProgress _ n (s.newContext g kind d r).liveWord))
    exact hshown.trans (finish { fromAcceptance := true, resume := false } n (_, .settle { Fresh.none with arrival := true }))
  · unfold Part.enterWaiting
    simp only
    split
    · exact setWaiting s n _
    · exact (setWaiting s n _).trans ((freshFields _ n false).trans ((writeProgress _ n _).trans (tell _ .backlog)))

theorem substitute (s : Part) (n : CardIx) (g : Byte) (d : DevIx) (aux : Nat) : Confined s (s.substitute n g d aux).part := by
  unfold Part.substitute
  split
  · exact refl s
  · split
    · exact refl s
    · split
      · simp only
        split
        · exact (changeDevice s _ d).trans (reresolveWhere _ _)
        · exact changeDevice s _ d
      · exact request s _

theorem restore (s : Part) (d : DevIx) : Confined s (s.restore d).part := by
  unfold Part.restore
  split
  · exact (changeDevice s _ d).trans (reresolveWhere _ _)
  · exact refl s

theorem clearFour (s : Part) (q : FourIx) : Confined s (s.clearFour q).part := by
  unfold Part.clearFour
  simp only
  split
  · split <;> exact of_same rfl rfl rfl
  · exact refl s

theorem clearTwo (s : Part) (n : CardIx) (g : Byte) (retried : Bool) (p : TwoIx) (dataHigh : Bool) :
    Confined s (s.clearTwo n g retried p dataHigh) := by
  unfold Part.clearTwo
  simp only
  split
  · split
    · exact Confined.trans (t := s.setTwo p (s.twoIdle (s.twoAt p))) (of_same rfl rfl rfl) (endControl _ n g retried _ _)
    · exact of_same rfl rfl rfl
  · exact endControl s n g retried _ _

theorem portClear (s : Part) (n : CardIx) (g : Byte) (retried : Bool) (port : PortIx) (dataHigh : Bool) :
    Confined s (s.portClear n g retried port dataHigh) := by
  unfold Part.portClear
  split
  · exact clearTwo s n g retried _ dataHigh
  · exact (clearFour s _).trans (endControl _ n g retried _ _)

theorem intakeCard (s : Part) (n : CardIx) (g : Byte) (retried dataHigh : Bool) :
    Confined s (s.intakeCard n g retried dataHigh) := by
  unfold Part.intakeCard
  simp only
  refine (clearDone s n).trans ?_
  split
  · exact reject _ n g retried _
  · exact takeTransfer _ n g retried _ _ _
  · exact (substitute _ n g _ _).trans (endControl _ n g retried _ _)
  · exact (restore _ _).trans (endControl _ n g retried _ _)
  · exact portClear _ n g retried _ dataHigh

theorem visit (s : Part) (dataHigh : Bool) : Confined s (s.visit dataHigh) := by
  unfold Part.visit
  split
  · exact refl s
  · rename_i n _
    split
    · refine Confined.trans ?_ (endVisit _ n)
      unfold Part.visitCard
      split
      · exact refl s
      · exact clearDone s n
      · exact withdrawCard s n
      · exact intakeCard s n _ _ dataHigh
    · exact refl s

end Sys2Proof.Machine.Confined
end

section
/-! Resets, attach and the host's accesses, and what each command can do to the part; every step keeps the canonical form of the memory, and
HALTED while the port is not ready, and no command but a host write or the power-on clear's end writes a posting or scratch byte (R156,
R162, R170). -/

namespace Sys2Proof.Machine.Confined

/-! ### Resets and the reference -/

/-- A reset leaves Run Control at rest. -/
theorem unitsReset (s : Part) : Confined s s.unitsReset := ⟨.refl _, rfl, fun _ => ⟨rfl, rfl⟩⟩

/-- A RESET in the clearing of an attach leaves what the clearing has written (R172). -/
theorem softReset (s : Part) : Confined s s.softReset := by
  refine Confined.trans (t := s.abandonClearing) ?_ (unitsReset _)
  unfold Part.abandonClearing
  split
  · refine ⟨?_, rfl, id⟩
    dsimp only
    exact .attachClear _ _
  · exact refl s

theorem refLost (s : Part) : Confined s s.refLost := by
  unfold Part.refLost
  split
  · exact Confined.trans (t := { s with
        time := { s.time with source := .fallback, runCount := 0, edgeGap := edgeGapLimit, boundary := false }
        two := s.two.map TwoWire.markFallback, four := s.four.map FourWire.markFallback })
      (of_same rfl rfl rfl) ((request _ _).trans (tell _ .clock))
  · exact refl s

theorem refBack (s : Part) : Confined s s.refBack := by
  unfold Part.refBack
  split
  · exact Confined.trans (t := { s with time := { s.time with source := .reference, boundary := false } })
      (of_same rfl rfl rfl) ((request _ _).trans (tell _ .clock))
  · exact refl s

theorem referenceEdge (s : Part) (spacing : Option Nat) : Confined s (s.referenceEdge spacing) := by
  unfold Part.referenceEdge
  split <;> exact of_same rfl rfl rfl

theorem referenceGap (s : Part) : Confined s s.referenceGap := by
  unfold Part.referenceGap
  split <;> exact of_same rfl rfl rfl

theorem unlessReset {f : Part → Part} (hf : ∀ s, Confined s (f s)) (s : Part) : Confined s (s.unlessReset f) := by
  unfold Part.unlessReset
  split
  · exact refl s
  · exact hf s

/-! ### Attach, RUN and STOP -/

theorem quiesce {s : Part} (hbusy : ¬ s.run.atRest) : Confined s s.quiesce :=
  Confined.trans (t := { s with run := { s.run with state := .quiescing }, intake := { s.intake with timer := none } })
    (of_busy hbusy (.refl _) rfl) (tryStop _)

/-- The part enters RUNNING from its line checks alone (R172). -/
theorem tryFinishAttach (s : Part) : Confined s s.tryFinishAttach := by
  unfold Part.tryFinishAttach
  split
  · rename_i hcheck
    have hbusy : ¬ s.run.atRest := by
      rintro ⟨_, hattach⟩
      rw [hattach] at hcheck
      cases hcheck.1
    have hrunning : ∀ {t : Part}, t.rep.mem = s.rep.mem → t.host = s.host → Confined s t := fun hmem hhost =>
      of_busy hbusy (hmem ▸ .refl _) (by rw [hhost])
    unfold Part.finishAttach
    simp only
    split
    · refine Confined.trans (hrunning ?_ ?_) (quiesce ?_)
      · rfl
      · rfl
      · rintro ⟨hstate, _⟩
        cases hstate
    · refine Confined.trans (hrunning ?_ ?_) (beginSweep _)
      · rfl
      · rfl
  · exact refl s

theorem attachCheck (s : Part) (p : TwoIx) (dataHigh : Bool) : Confined s (s.attachCheck p dataHigh) := by
  unfold Part.attachCheck
  split <;> exact of_same rfl rfl rfl

theorem clearingEnd (s : Part) (data0High data1High : Bool) : Confined s (s.clearingEnd data0High data1High) := by
  unfold Part.clearingEnd
  split
  · rename_i hclearing
    have hbusy : ¬ s.run.atRest := by
      rintro ⟨hstate, _⟩
      rw [hstate] at hclearing
      cases hclearing.1
    have hclear : Confined s s.attachClear := by
      refine of_busy hbusy ?_ rfl
      unfold Part.attachClear
      dsimp only
      exact .attachClear _ _
    exact (hclear.trans (attachCheck _ 0 _)).trans ((attachCheck _ 1 _).trans (tryFinishAttach _))
  · exact refl s

/-- RUN writes the header fault field at most, and the port stays as ready as it was (R167, R171, R174). -/
theorem runCommand_mem (s : Part) : s.rep.mem.ReportsAlone s.runCommand.rep.mem ∧ s.runCommand.host.holds = s.host.holds := by
  have hattach : s.rep.mem.ReportsAlone s.beginAttach.rep.mem ∧ s.beginAttach.host.holds = s.host.holds := by
    unfold Part.beginAttach
    simp only
    split
    · exact ⟨.refl _, rfl⟩
    · exact ⟨.setWord _ (reportWord_reportHeader (by decide) (by decide)) _, rfl⟩
  by_cases hstopped : s.run.state = .stopped
  · have hbusy : ¬ s.run.atRest := by
      rintro ⟨hstate, _⟩
      rw [hstate] at hstopped
      cases hstopped
    have hresumed : Confined s s.resumed := of_busy hbusy (.refl _) rfl
    have hresume := hresumed.trans ((foldl (f := Part.passCard) (fun t n => finish _ n (t, _)) allCards _).trans (beginSweep _))
    rw [Part.runCommand_resumes hstopped]
    exact ⟨hresume.mem, hresume.holds⟩
  · unfold Part.runCommand
    cases hstate : s.run.state with
    | halted | faulted => exact hattach
    | stopped => exact absurd hstate hstopped
    | attaching | running | quiescing => exact ⟨.refl _, rfl⟩

theorem stopCommand (s : Part) : Confined s s.stopCommand := by
  have hbusy : s.run.state ≠ .halted → ¬ s.run.atRest := fun h hrest => h hrest.1
  unfold Part.stopCommand
  cases hstate : s.run.state with
  | running => exact quiesce (hbusy (by simp [hstate]))
  | attaching => exact of_busy (hbusy (by simp [hstate])) (.refl _) rfl
  | halted | quiescing | stopped | faulted => exact refl s

/-! ### Recoveries -/

theorem answerClear (s : Part) (cleared : Bool) : Confined s (s.answerClear cleared) := by
  unfold Part.answerClear
  split
  · exact refl s
  · rename_i x _
    have hcontrol : Confined s ({ s with intake := { s.intake with control := none } } : Part) := of_same rfl rfl rfl
    simp only
    split <;> exact (hcontrol.trans (endControl _ x.card x.generation false _ _)).trans (endVisit _ x.card)

theorem afterRecovery (s : Part) (p : TwoIx) (cause : RecoveryCause) (stuck : Bool) : Confined s (s.afterRecovery p cause stuck) := by
  unfold Part.afterRecovery
  split
  · exact attemptEnded s _ _ _ _ _
  · exact tryFinishAttach s
  · exact answerClear s _

theorem recoveryDone (s : Part) (p : TwoIx) (pulses : Nat) : Confined s (s.recoveryDone p pulses) := by
  unfold Part.recoveryDone
  simp only
  split
  · exact refl s
  · split
    · exact Confined.trans (t := s.setTwo p _) (of_same rfl rfl rfl) ((request _ _).trans (afterRecovery _ p _ _))
    · exact refl s

theorem portStuck (s : Part) (p : TwoIx) (reason : StuckBy) (dataHigh : Bool) : Confined s (s.portStuck p reason dataHigh) := by
  unfold Part.portStuck
  simp only
  split
  · exact refl s
  · split
    · refine Confined.trans ?_ (afterRecovery _ p _ _)
      unfold Part.stuckEffects
      split
      · exact fenceTwo s p _ _ _
      · exact fenceTwo s p _ _ _
      · exact Confined.trans (t := s.setTwo p _) (of_same rfl rfl rfl) (request _ _)
    · exact refl s

/-! ### Records and the Host Access Port -/

/-- The request at the head of the queue is appended or lost (R145, R147). -/
theorem takeRequest (s : Part) : Confined s (s.report Reports.takeRequest) := by
  refine report ?_
  cases hqueue : s.rep.queue with
  | nil =>
    have hnone : s.rep.takeRequest = s.rep := by simp only [Reports.takeRequest, hqueue]
    rw [hnone]
    exact .refl _
  | cons f rest =>
    rcases Nat.lt_or_ge (s.rep.logMade - logTaken s.rep.mem).toNat 32 with hroom | hfull
    · rw [Reports.takeRequest_appended hqueue hroom]
      exact Reports.appendRecord_reportsAlone { s.rep with queue := rest } f
    · rw [Reports.takeRequest_lost hqueue hfull]
      exact Reports.loseRecord_reportsAlone { s.rep with queue := rest }

/-- A dropped write writes the mirror alone (R158). -/
theorem dropWrite (s : Part) : Confined s s.dropWrite := by
  have hmirror : ReportWord Addr.droppedMirror := reportWord_reportHeader (by decide) (by decide)
  have hzeroed : Confined s s.mayHaveZeroed := by
    unfold Part.mayHaveZeroed
    split
    · exact ⟨.refl _, rfl, id⟩
    · exact refl s
  unfold Part.dropWrite
  simp only
  split
  · exact hzeroed
  · exact hzeroed.trans ⟨.setWord _ hmirror _, rfl, id⟩

/-- Every access but a host write and RUN is confined. -/
theorem carryOut (s : Part) {i : Instr} (hwrite : ∀ offset value enables, i ≠ .hostWrite offset value enables) (hrun : i ≠ .run) :
    Confined s (s.carryOut i) := by
  cases i
  case hostWrite => exact absurd rfl (hwrite _ _ _)
  case run => exact absurd rfl hrun
  case stop => exact stopCommand s
  case reset => exact softReset s
  case nudge => exact nudge s
  case causeWrite value enables =>
    refine report (f := fun r => r.writeCause value enables) ?_
    simp only [Reports.writeCause_eq]
    exact .refl _
  case enableWrite value enables =>
    refine report (f := fun r => r.writeEnable value enables) ?_
    simp only [Reports.writeEnable_eq]
    exact .refl _
  all_goals exact refl s

end Sys2Proof.Machine.Confined

namespace Sys2Proof.Machine

/-! ### Accesses of the host -/

/-- An access other than a host write writes report words alone. -/
theorem Part.carryOut_reportsAlone (s : Part) {i : Instr} (hwrite : ∀ offset value enables, i ≠ .hostWrite offset value enables) :
    s.rep.mem.ReportsAlone (s.carryOut i).rep.mem := by
  by_cases hrun : i = .run
  · rw [hrun]
    exact (Confined.runCommand_mem s).1
  · exact (Confined.carryOut s hwrite hrun).mem

/-- A host write keeps the canonical form. -/
theorem Part.hostWrite_keepsForm {s : Part} (hs : s.memoryCanonical) (offset : Nat) (value : Word) (enables : BitVec 4) :
    (s.hostWrite offset value enables).memoryCanonical := by
  unfold Part.hostWrite
  split
  · exact hs
  · split
    · exact ((Confined.dropWrite s).mem hs).1
    all_goals exact Memory.wf_setEnabled hs _ _ _

theorem Part.carryOut_keepsForm {s : Part} (hs : s.memoryCanonical) (i : Instr) : (s.carryOut i).memoryCanonical := by
  by_cases hwrite : ∃ offset value enables, i = .hostWrite offset value enables
  · obtain ⟨offset, value, enables, rfl⟩ := hwrite
    exact Part.hostWrite_keepsForm hs offset value enables
  · exact (Part.carryOut_reportsAlone s (fun offset value enables h => hwrite ⟨offset, value, enables, h⟩) hs).1

/-- No access changes whether the port is ready. -/
theorem Part.carryOut_holds (s : Part) (i : Instr) : (s.carryOut i).host.holds = s.host.holds := by
  by_cases hwrite : ∃ offset value enables, i = .hostWrite offset value enables
  · obtain ⟨offset, value, enables, rfl⟩ := hwrite
    change (s.hostWrite offset value enables).host.holds = s.host.holds
    unfold Part.hostWrite
    split
    · rfl
    · split
      · exact (Confined.dropWrite s).holds
      all_goals rfl
  · by_cases hrun : i = .run
    · rw [hrun]
      exact (Confined.runCommand_mem s).2
    · exact (Confined.carryOut s (fun offset value enables h => hwrite ⟨offset, value, enables, h⟩) hrun).holds

theorem Part.notReady_of_holds {s t : Part} (h : t.host.holds = s.host.holds) : t.notReady = s.notReady := by
  obtain ⟨hreset, hclearing⟩ := Prod.mk.inj h
  rw [Part.notReady, Part.notReady, hreset, hclearing]

theorem Part.carryOut_notReady (s : Part) (i : Instr) : (s.carryOut i).notReady = s.notReady :=
  Part.notReady_of_holds (s.carryOut_holds i)

/-- Accesses carried out one after the other keep the canonical form and the port as ready as it was. -/
theorem Part.foldl_carryOut_keeps (is : List Instr) : ∀ {s : Part}, s.memoryCanonical →
    (is.foldl Part.carryOut s).memoryCanonical ∧ (is.foldl Part.carryOut s).host.holds = s.host.holds := by
  induction is with
  | nil => exact fun hs => ⟨hs, rfl⟩
  | cons i is ih =>
    intro s hs
    obtain ⟨hform, hholds⟩ := ih (Part.carryOut_keepsForm hs i)
    exact ⟨hform, hholds.trans (s.carryOut_holds i)⟩

/-- The part as the power-on clear leaves it, before the held accesses (R162). -/
def Part.cleared (s : Part) : Part :=
  { s with rep := { s.rep with mem := [] }, host := { s.host with clearing := false, held := [] } }

theorem Part.clearEnd_eq {s : Part} (hclearing : s.host.clearing = true) :
    s.clearEnd = s.host.held.foldl Part.carryOut s.cleared := if_pos hclearing

theorem Part.cleared_ready {s : Part} (hreset : s.host.resetAsserted = false) : s.cleared.notReady = false :=
  Bool.or_eq_false_iff.mpr ⟨hreset, rfl⟩

/-- The memory is empty after the clear, and what the held accesses write keeps its form (R162). -/
theorem Part.clearEnd_keepsForm {s : Part} (hs : s.memoryCanonical) : s.clearEnd.memoryCanonical := by
  unfold Part.clearEnd
  split
  · exact (Part.foldl_carryOut_keeps s.host.held (s := s.cleared) Memory.wf_nil).1
  · exact hs

/-! ### What a command can do -/

/-- What a command does to the part: an access of the host, a reset with its release and its clear, or a change that is confined. -/
inductive CommandEffect : Instr → Part → Part → Prop
  | access {i : Instr} (s : Part) : hostCommand i = true → CommandEffect i s (s.hostAccess i)
  | reset (s : Part) : CommandEffect .powerOnReset s s.powerOnReset
  | release (s : Part) : CommandEffect .resetNRelease s s.releaseReset
  | clear (s : Part) : CommandEffect .powerOnClearEnd s s.clearEnd
  | confined {i : Instr} {s t : Part} : Confined s t → CommandEffect i s t

theorem exec_effect {i : Instr} {s t : State} (h : exec i s = .next t) : CommandEffect i s.part t.part := by
  cases i with
  | hostWrite offset value enables =>
    simp only [exec, execHostWrite] at h
    split at h
    · cases h; exact .access _ rfl
    · cases h
  | registerWriteIgnored offset value enables =>
    simp only [exec, execRegisterWriteIgnored] at h
    split at h
    · cases h; exact .access _ rfl
    · cases h
  | run | stop | reset | nudge | causeWrite | enableWrite => cases h; exact .access _ rfl
  | powerOnReset => cases h; exact .reset _
  | resetNRelease => cases h; exact .release _
  | powerOnClearEnd => cases h; exact .clear _
  | timeCountTick => cases h; exact .confined (.unlessReset (f := Part.tick) (fun _ => .of_same rfl rfl rfl) _)
  | attachClearingEnd => cases h; exact .confined (.clearingEnd _ _ _)
  | sweepTimerExpiry => cases h; exact .confined (.sweepTimerExpired _)
  | visit => cases h; exact .confined (.visit _ _)
  | dueArrival => cases h; exact .confined (.dueArrival _ _)
  | windowExpiry | gapExpiry => cases h; exact .confined (.timedCommand _ _ _)
  | arbiterChoice => cases h; exact .confined (.arbiterChoice _ _)
  | guardExpiry d =>
    cases h
    dsimp only
    split
    · exact .confined (.changeDevice _ _ d)
    · exact .confined (.refl _)
  | driveStartCondition => cases h; exact .confined (.driveStart _ _ _)
  | startCondition p => cases h; exact .confined (.unlessReset (fun u => .startSeen u p) _)
  | stopCondition p => cases h; exact .confined (.unlessReset (f := fun u => u.stopSeen p) (fun _ => .of_same rfl rfl rfl) _)
  | busFreeTime high => cases h; exact .confined (.unlessReset (fun u => .busFree u high.port high.interval) _)
  | busLineFall p => cases h; exact .confined (.unlessReset (f := fun u => u.lineFall p) (fun _ => .of_same rfl rfl rfl) _)
  | twoWireDone => cases h; exact .confined (.twoDone _ _ _)
  | addressNack => cases h; exact .confined (.refusedByte _ _ _ _ _ _ _)
  | dataNack => cases h; exact .confined (.dataNack _ _ _ _ _ _)
  | checkMismatch => cases h; exact .confined (.checkMismatch _ _ _ _ _ _)
  | arbLost => cases h; exact .confined (.arbLost _ _ _ _ _)
  | busError => cases h; exact .confined (.busError _ _ _ _ _)
  | stretchTimeout => cases h; exact .confined (.stretchTimeout _ _ _ _ _ _)
  | recoveryDone => cases h; exact .confined (.recoveryDone _ _ _)
  | portStuck => cases h; exact .confined (.portStuck _ _ _ _)
  | holdTimerExpiry => cases h; exact .confined (.holdExpired _ _ _)
  | selectAssert => cases h; exact .confined (.selectAssert _ _ _ _)
  | selectLeadEnd => cases h; exact .confined (.selectLeadEnd _ _ _)
  | fourWireDone => cases h; exact .confined (.fourDone _ _ _)
  | fourWireCheckMismatch => cases h; exact .confined (.fourCheckMismatch _ _ _ _ _ _)
  | senseAssertion => cases h; exact .confined (.senseAsserted _ _ _ _ _)
  | senseDeassertion => cases h; exact .confined (.senseDeasserted _ _)
  | senseHoldExpiry => cases h; exact .confined (.senseHoldExpired _ _ _)
  | append =>
    cases h
    dsimp only
    split
    · exact .confined (.takeRequest _)
    · exact .confined (.refl _)
  | holdoffExpiry =>
    cases h
    dsimp only
    split <;> exact .confined (.of_same rfl rfl rfl)
  | refLost => cases h; exact .confined (.refLost _)
  | refBack => cases h; exact .confined (.refBack _)
  | referenceEdge spacing => cases h; exact .confined (.unlessReset (fun u => .referenceEdge u spacing) _)
  | referenceGap => cases h; exact .confined (.unlessReset .referenceGap _)

/-! ### The invariants of the host port -/

theorem Part.hostAccess_keepsForm {s : Part} (hs : s.memoryCanonical) (i : Instr) : (s.hostAccess i).memoryCanonical := by
  unfold Part.hostAccess
  split
  · exact hs
  · exact Part.carryOut_keepsForm hs i

theorem CommandEffect.keepsForm {i : Instr} {s t : Part} (h : CommandEffect i s t) (hs : s.memoryCanonical) : t.memoryCanonical := by
  cases h with
  | access _ => exact Part.hostAccess_keepsForm hs i
  | reset => exact hs
  | release =>
    unfold Part.releaseReset
    split <;> exact hs
  | clear => exact Part.clearEnd_keepsForm hs
  | confined hconfined => exact (hconfined.mem hs).1

/-- A port that is ready meets its invariant, whatever the run state. -/
theorem Part.resetHolds_of_ready {s : Part} (hready : s.notReady = false) : s.resetHolds := by
  obtain ⟨_, hclearing⟩ := Bool.or_eq_false_iff.mp hready
  exact ⟨fun h => absurd (hclearing.symm.trans h) Bool.false_ne_true, fun h => absurd (hready.symm.trans h) Bool.false_ne_true⟩

/-- Between an assertion of RESET_N and the clear's end Run Control is at rest (R162, R170). -/
theorem CommandEffect.keepsResetHolds {i : Instr} {s t : Part} (h : CommandEffect i s t) (hs : s.resetHolds) : t.resetHolds := by
  cases h with
  | access _ =>
    unfold Part.hostAccess
    split
    · exact hs
    · rename_i hready
      exact Part.resetHolds_of_ready ((s.carryOut_notReady i).trans (Bool.eq_false_iff.mpr hready))
  | reset => exact ⟨fun hclearing => absurd hclearing Bool.false_ne_true, fun _ => ⟨rfl, rfl⟩⟩
  | release =>
    unfold Part.releaseReset
    split
    · rename_i hreset
      exact ⟨fun _ => rfl, fun _ => hs.2 (by rw [Part.notReady, hreset, Bool.true_or])⟩
    · exact hs
  | clear =>
    unfold Part.clearEnd
    split
    · rename_i hclearing
      have hready := Part.notReady_of_holds (Part.foldl_carryOut_keeps s.host.held (s := s.cleared) Memory.wf_nil).2
      exact Part.resetHolds_of_ready (hready.trans (Part.cleared_ready (hs.1 hclearing)))
    · exact hs
  | confined hconfined =>
    obtain ⟨hreset, hclearing⟩ := Prod.mk.inj hconfined.holds
    refine ⟨fun h => hreset.trans (hs.1 (hclearing.symm.trans h)), fun h => ?_⟩
    exact hconfined.rest (hs.2 ((Part.notReady_of_holds hconfined.holds).symm.trans h))

/-- Beside a host write and the power-on clear's end, every command writes report words alone (R156). -/
theorem CommandEffect.reportsAlone {i : Instr} {s t : Part} (h : CommandEffect i s t) (hclear : i ≠ .powerOnClearEnd)
    (hwrite : ∀ offset value enables, i ≠ .hostWrite offset value enables) : s.rep.mem.ReportsAlone t.rep.mem := by
  cases h with
  | access _ =>
    unfold Part.hostAccess
    split
    · exact .refl _
    · exact s.carryOut_reportsAlone hwrite
  | reset => exact .refl _
  | release =>
    unfold Part.releaseReset
    split <;> exact .refl _
  | clear => exact absurd rfl hclear
  | confined hconfined => exact hconfined.mem

/-- What every command keeps, every step keeps: it idles, or carries out the front command of the queue. -/
theorem step_keeps {P : Part → Prop} (hP : ∀ {i : Instr} {s t : Part}, CommandEffect i s t → P s → P t) {s t : State} (hs : P s.part)
    (h : step s = .next t) : P t.part := by
  unfold step at h
  split at h
  · cases h
    exact hs
  · rename_i i rest _
    exact hP (exec_effect (i := i) (s := { s with pending := rest }) h) hs

/-- Settles O55: report words, host writes and the power-on clear all leave the memory canonical. -/
theorem stepKeepsMemoryCanonical : Obligations.StepKeepsMemoryCanonical := fun _ _ hs h => step_keeps CommandEffect.keepsForm hs h

/-- Settles O58: only RUN takes Run Control out of its rest, and while the port is not ready it is held. -/
theorem stepKeepsHaltedWhileNotReady : Obligations.StepKeepsHaltedWhileNotReady := fun _ _ hs h =>
  step_keeps CommandEffect.keepsResetHolds hs h

/-- Settles O60: what a command other than a host write or the clear's end writes lies in report words. -/
theorem partWritesOnlyReportWords : Obligations.PartWritesOnlyReportWords := fun _ _ _ hs h hclear hwrite =>
  ((exec_effect h).reportsAlone hclear hwrite hs).2

end Sys2Proof.Machine
end

section
/-! The Host Access Port: accesses held while it is not ready and carried out once it is, host writes of the exchange memory with the
dropped-write counter, and the register writes that are ignored (R156 to R158, R162 to R164). -/

namespace Sys2Proof.Machine

/-! ### Accesses held and carried out (R162) -/

theorem nextOf_of_exec {s t : State} {i : Instr} (h : exec i s = .next t) : nextOf s i = t := by rw [nextOf, h]

/-- An access that presents a word of the memory or a register is one of the port. -/
theorem exec_access {i : Instr} (hcommand : hostCommand i = true) (hwf : i.wellFormed = true) (s : State) :
    exec i s = .next { s with part := s.part.hostAccess i } := by
  cases i with
  | hostWrite | registerWriteIgnored => exact if_pos hwf
  | run | stop | reset | nudge | causeWrite | enableWrite => rfl
  | _ => cases hcommand

theorem exec_access_ready {i : Instr} (hcommand : hostCommand i = true) (hwf : i.wellFormed = true) {s : State}
    (hready : s.part.notReady = false) : exec i s = .next { s with part := s.part.carryOut i } :=
  (exec_access hcommand hwf s).trans (next_congr (Part.hostAccess_ready hready i))

/-- Settles O10: the port holds the access, and answers no read. -/
theorem accessesHeldWhileNotReady : Obligations.AccessesHeldWhileNotReady := by
  intro s i hcommand hwf hheld
  have haccess : s.part.hostAccess i = { s.part with host := { s.part.host with held := s.part.host.held ++ [i] } } := if_pos hheld
  exact ⟨(exec_access hcommand hwf s).trans (next_congr haccess), fun _ => if_pos hheld⟩

/-- Accesses that come to a ready port one after the other are carried out one after the other. -/
theorem foldl_nextOf_ready (is : List Instr) : ∀ s : State, s.part.notReady = false →
    (∀ i ∈ is, hostCommand i = true ∧ i.wellFormed = true) →
    is.foldl nextOf s = { s with part := is.foldl Part.carryOut s.part } := by
  induction is with
  | nil => exact fun _ _ _ => rfl
  | cons i is ih =>
    intro s hready his
    obtain ⟨hcommand, hwf⟩ := his i List.mem_cons_self
    rw [List.foldl_cons, nextOf_of_exec (exec_access_ready hcommand hwf hready)]
    exact ih _ ((s.part.carryOut_notReady i).trans hready) (fun j hj => his j (List.mem_cons_of_mem _ hj))

/-- Settles O5: after the clear the port is ready, so each held access is carried out as one that comes then. -/
theorem clearEndZeroesMemoryThenServesHeld : Obligations.ClearEndZeroesMemoryThenServesHeld := by
  intro s hclearing hreset hheld t
  have hready : t.part.notReady = false := Part.cleared_ready hreset
  refine ⟨?_, fun _ => rfl, hready⟩
  rw [foldl_nextOf_ready _ t hready hheld]
  exact next_congr (Part.clearEnd_eq hclearing)

/-! ### Register writes that are ignored (R157, R163, R164) -/

theorem ignoredWrite_iff (offset : Nat) (value : Word) (enables : BitVec 4) :
    ignoredWrite offset value enables = true ↔
      offset % 4 = 0 ∧ 0x8000 ≤ offset ∧
        (offset = 0x8000 ∨ offset = 0x8008 ∨ offset = 0x8018 ∨ 0x801C ≤ offset ∨ enables = 0#4 ∨
          (offset = 0x8004 ∧ namesNoCommand value enables = true)) := by
  simp only [ignoredWrite, Bool.and_eq_true, Bool.or_eq_true, beq_iff_eq, decide_eq_true_eq, Reg.id, Reg.state, Reg.time, Reg.above,
    Reg.control]
  tauto

/-- A byte without its enable, or one that is none of RUN, STOP and RESET, names no command (R164). -/
theorem namesNoCommand_of {value : Word} {enables : BitVec 4}
    (h : enables.getLsbD 0 = false ∨ (value.byte 0 ≠ 1#8 ∧ value.byte 0 ≠ 2#8 ∧ value.byte 0 ≠ 3#8)) :
    namesNoCommand value enables = true := by
  unfold namesNoCommand controlByte
  cases henabled : enables.getLsbD 0 with
  | false => rfl
  | true =>
    obtain ⟨h1, h2, h3⟩ := h.resolve_left (by simp [henabled])
    simp [h1, h2, h3]

/-- A ready port ignores the write. -/
theorem exec_ignoredWrite {s : State} (hready : s.part.notReady = false) {offset : Nat} {value : Word} {enables : BitVec 4}
    (h : ignoredWrite offset value enables = true) : exec (.registerWriteIgnored offset value enables) s = .next s :=
  exec_access_ready (i := .registerWriteIgnored offset value enables) rfl h hready

/-- Settles O11: each of the writes is one the part ignores. -/
theorem ignoredRegisterWritesChangeNothing : Obligations.IgnoredRegisterWritesChangeNothing := by
  intro s offset value enables hready hword habove hignored
  refine exec_ignoredWrite hready ((ignoredWrite_iff offset value enables).mpr ⟨hword, habove, ?_⟩)
  rcases hignored with h | h | h | h | h | ⟨hcontrol, hnone⟩
  · exact .inl h
  · exact .inr (.inl h)
  · exact .inr (.inr (.inl h))
  · exact .inr (.inr (.inr (.inl h)))
  · exact .inr (.inr (.inr (.inr (.inl h))))
  · exact .inr (.inr (.inr (.inr (.inr ⟨hcontrol, namesNoCommand_of hnone⟩))))

/-! ### Host writes of posting and scratch words (R157) -/

/-- A byte read after a write of a word under byte enables, by its place in the word. -/
theorem Memory.get_setEnabled_byte {m : Memory} (hm : m.wf = true) (offset : Nat) (value : Word) (enables : BitVec 4) (a : Nat) :
    (m.setEnabled offset value enables).get a =
      if offset ≤ a ∧ a < offset + 4 ∧ enables.getLsbD (a - offset) = true then value.byte (a - offset) else m.get a := by
  rw [Memory.get_setEnabled hm]
  by_cases hinside : offset ≤ a ∧ a < offset + 4
  · obtain ⟨k, hk, rfl⟩ : ∃ k, k < 4 ∧ a = offset + k := ⟨a - offset, by omega, by omega⟩
    interval_cases k <;> simp
  · rw [if_neg (by omega), if_neg (by omega), if_neg (by omega), if_neg (by omega), if_neg (fun h => hinside ⟨h.1, h.2.1⟩)]

/-- A host write of a word that is no report word is written under its enables. -/
theorem Part.hostWrite_posted {offset : Nat} (howner : Memory.ownerOf offset ≠ .report) (s : Part) (value : Word)
    (enables : BitVec 4) :
    s.hostWrite offset value enables = s.report (fun r => { r with mem := r.mem.setEnabled offset value enables }) := by
  unfold Part.hostWrite
  split
  · rename_i hnone
    rw [hnone]
    rfl
  · split
    · rename_i hreport
      exact absurd hreport howner
    all_goals rfl

theorem exec_hostWrite {s : State} (hready : s.part.notReady = false) {offset : Nat} (hword : offset % 4 = 0) (hmem : offset < 0x8000)
    (value : Word) (enables : BitVec 4) :
    exec (.hostWrite offset value enables) s = .next { s with part := s.part.hostWrite offset value enables } :=
  exec_access_ready (i := .hostWrite offset value enables) rfl (by simp [Instr.wellFormed, memoryOffset, hword, hmem]) hready

/-! ### Dropped writes (R158) -/

/-- A host write of a report word is dropped, unless it enables no byte. -/
theorem Part.hostWrite_dropped {offset : Nat} (howner : Memory.ownerOf offset = .report) (s : Part) (value : Word)
    (enables : BitVec 4) : s.hostWrite offset value enables = if enables = 0#4 then s else s.dropWrite := by
  rw [Part.hostWrite, howner]

/-- Outside the clearing of an attach the mirror stands as it is. -/
theorem Part.mayHaveZeroed_eq {s : Part} (h : s.run.attach ≠ some .clearing) : s.mayHaveZeroed = s := by
  have hclearing : s.inClearing = false := beq_eq_false_iff_ne.mpr h
  rw [Part.mayHaveZeroed, hclearing]
  rfl

/-- In the clearing the counter counts from where it stood or from 0 (log 21). -/
theorem Part.mayHaveZeroed_dropped (s : Part) :
    s.mayHaveZeroed.host.dropped = s.host.dropped ∨ s.mayHaveZeroed.host.dropped = 0#16 := by
  unfold Part.mayHaveZeroed
  split
  · cases Config.mirrorZeroedBefore s.freeCount with
    | false => exact .inl rfl
    | true => exact .inr rfl
  · exact .inl rfl

theorem Part.mayHaveZeroed_mem (s : Part) : s.mayHaveZeroed.rep.mem = s.rep.mem := by
  unfold Part.mayHaveZeroed
  split <;> rfl

/-- Below its limit the counter rises, and its mirror is written. -/
theorem Part.dropWrite_counts {s : Part} (h : s.mayHaveZeroed.host.dropped ≠ 0xFFFF#16) :
    s.dropWrite =
      { s.mayHaveZeroed with
        host := { s.mayHaveZeroed.host with dropped := s.mayHaveZeroed.host.dropped + 1#16 }
        rep := { s.mayHaveZeroed.rep with
          mem := s.mayHaveZeroed.rep.mem.setWord 0x004C (Word.ofHalves (s.mayHaveZeroed.host.dropped + 1#16) 0#16) } } := if_neg h

/-- At its limit it stays. -/
theorem Part.dropWrite_saturated {s : Part} (h : s.mayHaveZeroed.host.dropped = 0xFFFF#16) : s.dropWrite = s.mayHaveZeroed := if_pos h

/-- Settles O9: the owner of the word decides between the write and the drop. -/
theorem hostWritePostsOrIsDropped : Obligations.HostWritePostsOrIsDropped := by
  refine ⟨?posted, ?dropped, ?clearing⟩
  case posted =>
    intro s offset value enables hm hready hword hmem howner
    refine ⟨s.part.rep.mem.setEnabled offset value enables, ?_, Memory.wf_setEnabled hm _ _ _,
      Memory.get_setEnabled_byte hm offset value enables⟩
    exact (exec_hostWrite hready hword hmem value enables).trans (next_congr (Part.hostWrite_posted howner _ _ _))
  case dropped =>
    intro s offset value enables hready hword hmem howner hattach
    have hstands := Part.mayHaveZeroed_eq hattach
    rw [exec_hostWrite hready hword hmem, Part.hostWrite_dropped howner]
    by_cases hnone : enables = 0#4
    · rw [if_pos hnone, if_pos (.inl hnone)]
    · by_cases hlimit : s.part.host.dropped = 0xFFFF#16
      · rw [if_neg hnone, if_pos (.inr hlimit), Part.dropWrite_saturated (by rwa [hstands]), hstands]
      · rw [if_neg hnone, if_neg (not_or.mpr ⟨hnone, hlimit⟩), Part.dropWrite_counts (by rwa [hstands]), hstands]
  case clearing =>
    intro s offset value enables hm hready hword hmem howner _ _ henabled hlimit
    have hcount := s.part.mayHaveZeroed_dropped
    have hbelow : s.part.mayHaveZeroed.host.dropped ≠ 0xFFFF#16 := by
      rcases hcount with h | h <;> rw [h]
      · exact hlimit
      · decide
    refine ⟨_, exec_hostWrite hready hword hmem value enables, ?_⟩
    rw [Part.hostWrite_dropped howner, if_neg henabled, Part.dropWrite_counts hbelow, Part.mayHaveZeroed_mem]
    refine ⟨?_, Memory.word_setWord hm _ _, fun a ha => Memory.get_setWord_outside hm _ (by omega)⟩
    rcases hcount with h | h
    · exact .inl (congrArg (· + 1#16) h)
    · exact .inr (congrArg (· + 1#16) h)

end Sys2Proof.Machine
end

section
/-! What the registers return when they are read (R163, Tables 10-2 and 12-15), and the assertion and release of RESET_N (R162, R170). -/

namespace Sys2Proof.Machine

/-! ### STATE (Table 12-15) -/

theorem RunState.code_lt (state : RunState) : state.code < 8 := by cases state <;> decide

/-- The weight of a bit of a word, as a number. -/
theorem ite_weight (b : Bool) (k : Nat) : (if b = true then k else 0) = k * b.toNat := by
  cases b
  · rfl
  · exact (Nat.mul_one k).symm

/-- STATE as a number: the run state in the lowest three bits, the five indications above them. -/
theorem Part.stateWord_toNat (s : Part) :
    s.stateWord.toNat = s.run.state.code + 8 * (decide (s.time.source = .fallback)).toNat + 16 * (s.portFenced 0).toNat +
      32 * (s.portFenced 1).toNat + 64 * (s.portFenced 2).toNat + 128 * (s.portFenced 3).toNat := by
  have hstate := s.run.state.code_lt
  have hfallback : (if s.time.source = .fallback then 8 else 0) = 8 * (decide (s.time.source = .fallback)).toNat := by
    simp only [← ite_weight, decide_eq_true_eq]
  have h0 := (decide (s.time.source = .fallback)).toNat_le
  have h1 := (s.portFenced 0).toNat_le
  have h2 := (s.portFenced 1).toNat_le
  have h3 := (s.portFenced 2).toNat_le
  have h4 := (s.portFenced 3).toNat_le
  rw [Part.stateWord, BitVec.toNat_ofNat, hfallback, ite_weight, ite_weight, ite_weight, ite_weight]
  exact Nat.mod_eq_of_lt (by omega)

theorem Part.stateWord_runState (s : Part) : s.stateWord.toNat % 8 = s.run.state.code := by
  have hstate := s.run.state.code_lt
  rw [Part.stateWord_toNat]
  omega

/-- A bit of a word is the flag that its weight counts. -/
theorem Word.getLsbD_of_toNat {w : Word} {i : Nat} {b : Bool} (h : w.toNat / 2 ^ i % 2 = b.toNat) : w.getLsbD i = b := by
  rw [← BitVec.testBit_toNat, Nat.testBit_eq_decide_div_mod_eq, h]
  cases b <;> rfl

section
variable (s : Part)

theorem Part.stateWord_fallback : s.stateWord.getLsbD 3 = decide (s.time.source = .fallback) := by
  have hstate := s.run.state.code_lt
  have hflag := (decide (s.time.source = .fallback)).toNat_le
  refine Word.getLsbD_of_toNat ?_
  rw [Part.stateWord_toNat]
  omega

theorem Part.stateWord_fenced (p : PortIx) : s.stateWord.getLsbD (4 + p.val) = s.portFenced p := by
  have hstate := s.run.state.code_lt
  have hfallback := (decide (s.time.source = .fallback)).toNat_le
  have h0 := (s.portFenced 0).toNat_le
  have h1 := (s.portFenced 1).toNat_le
  have h2 := (s.portFenced 2).toNat_le
  have h3 := (s.portFenced 3).toNat_le
  refine Word.getLsbD_of_toNat ?_
  rw [Part.stateWord_toNat]
  match p with
  | 0 => change _ / 16 % 2 = _; omega
  | 1 => change _ / 32 % 2 = _; omega
  | 2 => change _ / 64 % 2 = _; omega
  | 3 => change _ / 128 % 2 = _; omega

end

/-! ### The registers (Table 10-2) -/

/-- Above the registers a read returns 0. -/
theorem Part.readRegister_above (s : Part) {offset : Nat} (h : 0x801C ≤ offset) : s.readRegister offset = 0#32 := by
  have hne : ∀ r, r < 0x801C → offset ≠ r := fun r hr => by omega
  rw [Part.readRegister, if_neg (hne _ (by decide)), if_neg (hne _ (by decide)), if_neg (hne _ (by decide)),
    if_neg (hne _ (by decide)), if_neg (hne _ (by decide))]

/-- Settles O12: each register by its offset, the memory by its words, and the writes among those that are ignored. -/
theorem registerReadsReturnState : Obligations.RegisterReadsReturnState := by
  intro s hready
  have hread : ∀ {offset : Nat}, 0x8000 ≤ offset → s.part.hostRead offset = some (s.part.readRegister offset) :=
    Part.hostRead_register hready
  refine ⟨hread (by decide), hread (by decide), hread (by decide), hread (by decide), hread (by decide), hread (by decide),
    fun offset habove => ?_, ⟨s.part.stateWord, hread (by decide), s.part.stateWord_runState, ?_, s.part.stateWord_fenced⟩,
    fun offset hmem => ?_, fun offset value enables hword hignored => ?_⟩
  · rw [hread (by omega), s.part.readRegister_above habove]
  · rw [s.part.stateWord_fallback, decide_eq_true_eq]
  · rw [Part.hostRead, if_neg (by rw [hready]; exact Bool.false_ne_true), if_pos hmem]
  · refine exec_ignoredWrite hready ((ignoredWrite_iff offset value enables).mpr ⟨hword, by omega, ?_⟩)
    exact hignored.imp id (.imp id (.imp id .inl))

/-! ### RESET_N (R162, R170) -/

/-- The release of RESET_N begins the power-on clear. -/
theorem exec_resetNRelease {s : State} (hreset : s.part.host.resetAsserted = true) :
    exec .resetNRelease s = .next { s with part :=
      { s.part with
        host := { s.part.host with resetAsserted := false, clearing := true }
        time := { s.part.time with count := 0#32 } } } := next_congr (if_pos hreset)

/-- Settles O4: the assertion by what each unit is reset to, the release by the clear that it begins. -/
theorem powerOnResetAndRelease : Obligations.PowerOnResetAndRelease := by
  refine ⟨fun s => rfl, fun s hreset => ⟨exec_resetNRelease hreset, ?_⟩⟩
  rw [nextOf_of_exec (exec_resetNRelease hreset)]
  rfl

end Sys2Proof.Machine
end

section
/-! The supervision of the reference: its loss, its return, and the run count of plausible edges (R175, R176). -/

namespace Sys2Proof.Machine

/-! ### The run count (R175, R176) -/

theorem plausible_iff (spacing : Option Nat) : plausible spacing = true ↔ ∃ ns, spacing = some ns ∧ 90 ≤ ns ∧ ns ≤ 110 := by
  cases spacing <;> simp [plausible]

/-- Below 256 a plausible edge counts, and any other edge begins the count again. -/
theorem runCountAfter_below {k : Nat} (hk : k < 256) (spacing : Option Nat) :
    runCountAfter k spacing = if plausible spacing then k + 1 else 1 := by
  have hlimit : min Config.qualifyEdges (k + 1) = k + 1 := Nat.min_eq_right hk
  rw [runCountAfter, if_neg (Nat.ne_of_lt hk), hlimit]

/-- A count that has reached 256 stays (log 24). -/
theorem runCountAfter_reached (spacing : Option Nat) : runCountAfter 256 spacing = 256 := if_pos rfl

/-! ### Edges and gaps (R175, R176) -/

theorem Part.referenceEdge_fallback {s : Part} (hsource : s.time.source = .fallback) (spacing : Option Nat) :
    s.referenceEdge spacing =
      { s with time := { s.time with edgeGap := 0, runCount := runCountAfter s.time.runCount spacing } } := by
  rw [Part.referenceEdge, hsource]

/-- An edge whose run count does not change restarts the gap measure alone. -/
theorem Part.referenceEdge_uncounted {s : Part} (h : s.time.source = .reference ∨ s.time.runCount = 256) (spacing : Option Nat) :
    s.referenceEdge spacing = { s with time := { s.time with edgeGap := 0 } } := by
  cases hsource : s.time.source with
  | reference => rw [Part.referenceEdge, hsource]
  | fallback =>
    have hcount : s.time.runCount = 256 := h.resolve_left (by simp [hsource])
    rw [Part.referenceEdge_fallback hsource, hcount, runCountAfter_reached, ← hcount]

/-- Settles O7: the loss and the return by their conditions, then edges by the source and the run count, and gaps. -/
theorem referenceSupervisionSwitchesSource : Obligations.ReferenceSupervisionSwitchesSource := by
  refine ⟨?lost, ?back, ?edgeCounted, ?edgeUncounted, ?gap⟩
  case lost => exact fun s hsource => next_congr (p := s.part.refLost) (if_pos hsource)
  case back => exact fun s hsource hcount hmark => next_congr (p := s.part.refBack) (if_pos ⟨hsource, hcount, hmark⟩)
  case edgeCounted =>
    intro s spacing hreset hsource hcount
    refine next_congr ((Part.unlessReset_taken hreset _).trans ((Part.referenceEdge_fallback hsource spacing).trans ?_))
    simp only [runCountAfter_below hcount, plausible_iff]
  case edgeUncounted =>
    exact fun s spacing hreset h =>
      next_congr ((Part.unlessReset_taken hreset _).trans (Part.referenceEdge_uncounted h spacing))
  case gap =>
    intro s hreset hsource
    refine next_congr ((Part.unlessReset_taken hreset _).trans ((if_pos hsource).trans ?_))
    split
    next hcount => rw [hcount]; rfl
    next hcount => rfl

end Sys2Proof.Machine
end

section
/-! A RESET by the host: the units at their reset values, and the words that an abandoned clearing of attach may have reached (R158, R159,
R169, R172). -/

namespace Sys2Proof.Machine

/-! ### A clearing that is abandoned (R172; log 21) -/

/-- A clearing that reaches some words writes the status words among them. -/
theorem Memory.attachClear_eq (m : Memory) (p : Nat → Bool) :
    m.attachClear p =
      ((List.finRange Config.devices).filter (fun d => p (Addr.status d / 4))).foldl
        (fun m d => m.setWord (Addr.status d) statusAtAttach) (m.clearWhere (fun a => Addr.clearedByAttach a && p (a / 4))) :=
  List.foldl_filter.symm

/-- The status words that a clearing reaches, byte by byte. -/
theorem Addr.status_covers_reached (p : Nat → Bool) (a : Nat) :
    (∃ d ∈ (List.finRange Config.devices).filter (fun d => p (Addr.status d / 4)), Addr.status d ≤ a ∧ a < Addr.status d + 4) ↔
      (0x0500 ≤ a ∧ a < 0x0600) ∧ p (a / 4) = true := by
  have hword : ∀ d : DevIx, Addr.status d ≤ a ∧ a < Addr.status d + 4 → Addr.status d / 4 = a / 4 := by
    unfold Addr.status
    omega
  rw [← Addr.status_covers a]
  constructor
  · rintro ⟨d, hd, ha⟩
    obtain ⟨hd, hp⟩ := List.mem_filter.mp hd
    exact ⟨⟨d, hd, ha⟩, hword d ha ▸ hp⟩
  · rintro ⟨⟨d, hd, ha⟩, hp⟩
    exact ⟨d, List.mem_filter.mpr ⟨hd, (hword d ha).symm ▸ hp⟩, ha⟩

/-- A byte that attach writes, in a word that the clearing has reached, is as attach leaves it; every other byte stands. -/
theorem Memory.get_attachClear_reached {m : Memory} (hm : m.wf = true) (p : Nat → Bool) (a : Nat) :
    (m.attachClear p).get a =
      if Addr.clearedByAttach a = true ∧ p (a / 4) = true then (if 0x0500 ≤ a ∧ a < 0x0600 ∧ a % 4 = 2 then 0xFF#8 else 0#8)
      else m.get a := by
  have hclear := Memory.wf_clearWhere (fun a => Addr.clearedByAttach a && p (a / 4)) hm
  rw [Memory.attachClear_eq, Memory.get_statusWords _ hclear, if_congr (Addr.status_covers_reached p a) rfl rfl,
    Memory.get_clearWhere, statusAtAttach_byte (Nat.mod_lt _ (by omega))]
  simp only [Bool.and_eq_true]
  by_cases hstatus : 0x0500 ≤ a ∧ a < 0x0600
  · have hcleared : Addr.clearedByAttach a = true := by simp [Addr.clearedByAttach, hstatus]
    have hmod : (a - 0x0500) % 4 = a % 4 := by omega
    by_cases hp : p (a / 4) = true <;> simp [hstatus, hcleared, hmod, hp]
  · have hout : ¬(0x0500 ≤ a ∧ a < 0x0600 ∧ a % 4 = 2) := fun h => hstatus ⟨h.1, h.2.1⟩
    rw [if_neg (fun h => hstatus h.1), if_neg hout]

/-- The word of the dropped-write mirror after a clearing that may have reached it. -/
theorem Memory.word_mirror_attachClear {m : Memory} (hm : m.wf = true) (p : Nat → Bool) :
    (m.attachClear p).word 0x004C = if p mirrorIndex then 0#32 else m.word 0x004C := by
  have hget : ∀ b, 0x004C ≤ b → b < 0x0050 → (m.attachClear p).get b = if p mirrorIndex then 0#8 else m.get b := by
    intro b h1 h2
    have hcleared : Addr.clearedByAttach b = true := by simp [Addr.clearedByAttach]; omega
    have hindex : b / 4 = mirrorIndex := show b / 4 = 0x004C / 4 by omega
    have hout : ¬(0x0500 ≤ b ∧ b < 0x0600 ∧ b % 4 = 2) := by omega
    rw [Memory.get_attachClear_reached hm, hcleared, hindex, if_neg hout]
    simp only [true_and]
  split
  next hp =>
    have hzero : ∀ b, 0x004C ≤ b → b < 0x0050 → (m.attachClear p).get b = 0#8 := fun b h1 h2 => (hget b h1 h2).trans (if_pos hp)
    rw [Memory.word, hzero _ (by decide) (by decide), hzero _ (by decide) (by decide), hzero _ (by decide) (by decide),
      hzero _ (by decide) (by decide)]
    rfl
  next hp => exact Memory.word_congr (fun b h1 h2 => (hget b h1 h2).trans (if_neg hp))

/-! ### RESET (R158, R159, R169) -/

/-- The words that a RESET in the clearing of attach finds cleared (log 21). -/
def Part.reached (s : Part) (w : Nat) : Bool := Config.clearedBefore s.freeCount w && !(s.host.mirrorZeroed && w == mirrorIndex)

/-- Outside the clearing of an attach nothing is abandoned. -/
theorem Part.abandonClearing_eq {s : Part} (h : s.run.attach ≠ some .clearing) : s.abandonClearing = s :=
  if_neg (fun hclearing => h (beq_iff_eq.mp hclearing))

theorem Part.abandonClearing_clearing {s : Part} (h : s.run.attach = some .clearing) :
    s.abandonClearing =
      { s with
        rep := { s.rep with mem := s.rep.mem.attachClear s.reached }
        host := { s.host with dropped := if s.reached mirrorIndex then 0#16 else s.host.dropped }
        freeCount := s.freeCount + 1 } := if_pos (beq_iff_eq.mpr h)

/-- A mirror that was zeroed before is not zeroed again, nor is its counter. -/
theorem Part.mirrorZeroed_of_reached {s : Part} (h : s.reached mirrorIndex = true) : s.host.mirrorZeroed = false := by
  simpa using (Bool.and_eq_true_iff.mp h).2

theorem exec_reset {s : State} (hready : s.part.notReady = false) :
    exec .reset s = .next { s with part := s.part.abandonClearing.unitsReset } :=
  exec_access_ready (i := .reset) rfl rfl hready

/-- Settles O8: a RESET resets the units of the part, or of the part whose clearing it abandons. -/
theorem softResetResetsUnits : Obligations.SoftResetResetsUnits := by
  refine ⟨fun s hready hattach => ?_, fun s hm hready hattach => ?_⟩
  · rw [exec_reset hready, Part.abandonClearing_eq hattach]
    rfl
  · have hmirror := Memory.word_mirror_attachClear hm s.part.reached
    refine ⟨s.part.rep.mem.attachClear s.part.reached, if s.part.reached mirrorIndex then 0#16 else s.part.host.dropped,
      s.part.freeCount + 1, ?_, Memory.wf_attachClear hm _, ?_, fun a => ?_⟩
    · rw [exec_reset hready, Part.abandonClearing_clearing hattach]
      rfl
    · cases hreached : s.part.reached mirrorIndex with
      | false => exact .inl ⟨rfl, by rw [hmirror, hreached]; rfl⟩
      | true => exact .inr ⟨Part.mirrorZeroed_of_reached hreached, rfl, by rw [hmirror, hreached]; rfl⟩
    · rw [Memory.get_attachClear_reached hm]
      split
      next h => exact .inr ⟨h.1, rfl⟩
      next => exact .inl rfl

end Sys2Proof.Machine
end

section
/-! STOP by the run state, and the entry into STOPPED (R168, R173). -/

namespace Sys2Proof.Machine

/-! ### The entry into STOPPED (R173) -/

theorem Part.tryStop_stops {s : Part} (hstate : s.run.state = .quiescing) (hattempt : s.attemptInProgress = false)
    (hpos : s.intake.pos = none) :
    s.tryStop = Part.tell { s with run := { s.run with state := .stopped, stoppedAt := s.now } } .runState :=
  if_pos (by simp [hstate, hattempt, hpos])

/-- While an attempt or a visit is in progress the run state stays. -/
theorem Part.tryStop_stays {s : Part} (h : s.attemptInProgress = true ∨ s.intake.pos ≠ none) : s.tryStop = s := by
  refine if_neg (fun hgo => ?_)
  simp only [Bool.and_eq_true, Bool.not_eq_true', Option.isNone_iff_eq_none] at hgo
  obtain ⟨⟨_, hattempt⟩, hpos⟩ := hgo
  exact h.elim (fun hbusy => Bool.false_ne_true (hattempt.symm.trans hbusy)) (fun hne => hne hpos)

/-! ### STOP (R168) -/

theorem exec_stop {s : State} (hready : s.part.notReady = false) : exec .stop s = .next { s with part := s.part.stopCommand } :=
  exec_access_ready (i := .stop) rfl rfl hready

/-- In HALTED, QUIESCING, STOPPED and FAULTED a STOP has no effect. -/
theorem Part.stopCommand_none {s : Part}
    (h : s.run.state = .halted ∨ s.run.state = .quiescing ∨ s.run.state = .stopped ∨ s.run.state = .faulted) :
    s.stopCommand = s := by
  rcases h with h | h | h | h <;> rw [Part.stopCommand, h]

theorem Part.stopCommand_attaching {s : Part} (h : s.run.state = .attaching) :
    s.stopCommand = { s with run := { s.run with stopHeld := true } } := by
  rw [Part.stopCommand, h]

theorem Part.stopCommand_running {s : Part} (h : s.run.state = .running) :
    s.stopCommand =
      Part.tryStop { s with run := { s.run with state := .quiescing }, intake := { s.intake with timer := none } } := by
  rw [Part.stopCommand, h]
  rfl

/-! ### The end of the last attempt (R173) -/

/-- Some element of a vector passes a test where the element at some index does. -/
theorem any_toList_iff_index {α : Type} {n : Nat} (v : Vector α n) (test : α → Bool) :
    v.toList.any test = true ↔ ∃ q : Fin n, test v[q] = true := by
  rw [Vector.any_toList, Vector.any_eq_true]
  exact ⟨fun ⟨i, hi, ht⟩ => ⟨⟨i, hi⟩, ht⟩, fun ⟨q, ht⟩ => ⟨q.val, q.isLt, ht⟩⟩

/-- An attempt is in progress where a port is busy. -/
theorem Part.attemptInProgress_iff (s : Part) :
    s.attemptInProgress = true ↔ (∃ q : TwoIx, (s.twoAt q).busy = true) ∨ ∃ q : FourIx, (s.fourAt q).busy = true := by
  simp only [Part.attemptInProgress, Bool.or_eq_true, any_toList_iff_index]
  rfl

/-- A stop driven ends the attempt of its port: those in progress are the others. -/
theorem Part.stopDriven_attemptInProgress (s : Part) (p : TwoIx) (wire : List BusItem) :
    (s.stopDriven p wire).attemptInProgress = true ↔
      (∃ q : TwoIx, q ≠ p ∧ (s.twoAt q).busy = true) ∨ ∃ q : FourIx, (s.fourAt q).busy = true := by
  have htwo : ∀ q : TwoIx, ((s.stopDriven p wire).twoAt q).busy = true ↔ q ≠ p ∧ (s.twoAt q).busy = true := by
    intro q
    rw [Part.stopDriven, Part.setTwo_twoAt]
    split
    next hq => exact ⟨fun h => absurd h Bool.false_ne_true, fun h => absurd hq h.1⟩
    next hq => exact ⟨fun h => ⟨hq, h⟩, fun h => h.2⟩
  rw [Part.attemptInProgress_iff]
  simp only [htwo]
  rfl

theorem Part.attemptInProgress_congr {s t : Part} (htwo : t.two = s.two) (hfour : t.four = s.four) :
    t.attemptInProgress = s.attemptInProgress := by
  rw [Part.attemptInProgress, htwo, hfour, Part.attemptInProgress]

/-- A success told to the Device Status Unit changes nothing of Run Control, the time, the Intake Unit and the ports. -/
theorem Part.deviceSucceeded_frame (s : Part) (d : DevIx) (setting : Bool) (guardTime : Nat) (stop : Time) :
    let t := s.deviceSucceeded d setting guardTime stop
    t.run = s.run ∧ t.time = s.time ∧ t.intake = s.intake ∧ t.two = s.two ∧ t.four = s.four := by
  rw [Part.deviceSucceeded_eq, Part.changeDevice_eq]
  exact ⟨rfl, rfl, rfl, rfl, rfl⟩

/-- DONE comes to the entry into STOPPED with the run state, the ports, the sweep and the time as the stop driven has left them. -/
theorem Part.twoDone_eq_tryStop {s : Part} {p : TwoIx} {a : Attempt} {start : Time} {c : Context} {data : List Byte}
    (h : s.carriesOut p a start c) (hdata : data.length = c.readTotal) :
    ∃ u : Part, s.twoDone p data = u.tryStop ∧ u.run = s.run ∧ u.time = s.time ∧ u.intake = s.intake ∧
      u.attemptInProgress = (s.stopDriven p (doneWire a c data)).attemptInProgress := by
  have hctx : (s.stopDriven p (doneWire a c data)).ctx a.card = some c := h.2.2
  have htold := (s.stopDriven p (doneWire a c data)).deviceSucceeded_frame a.device c.flags.setting a.entry.guardTime s.now
  have hdone := Part.attemptEnded_done hctx (twoPort p) data s.now
  generalize (s.stopDriven p (doneWire a c data)).deviceSucceeded a.device c.flags.setting a.entry.guardTime s.now = told
    at htold hdone
  obtain ⟨hrun, htime, hintake, htwo, hfour⟩ := htold
  have hends := (onlyCards_closed a.card).trans
    (endInstance_onlyCard told a.card { c with last := some ((s.stopDriven p (doneWire a c data)).lastOf a s.now) } .ok data
      .none).cards (finish_onlyCard .plain a.card _).cards
  exact ⟨_, (Part.twoDone_eq h hdata).trans hdone, hends.run.trans hrun, hends.time.trans htime, hends.intake.trans hintake,
    Part.attemptInProgress_congr (hends.two.trans htwo) (hends.four.trans hfour)⟩

/-- Settles O16: STOP by the run state, and DONE in QUIESCING by what is still in progress. -/
theorem stopByRunState : Obligations.StopByRunState := by
  refine ⟨fun s hready => ?_, fun s p a start c data hstate h hdata => ?_⟩
  · rw [exec_stop hready]
    intro q
    refine ⟨fun hstate hbusy => next_congr ?_, fun hstate hattempt hpos => next_congr ?_,
      fun hstate => next_congr (Part.stopCommand_attaching hstate), fun hstate => next_congr (Part.stopCommand_none hstate)⟩
    · exact (Part.stopCommand_running hstate).trans (Part.tryStop_stays hbusy)
    · exact (Part.stopCommand_running hstate).trans (Part.tryStop_stops (s := q) rfl hattempt hpos)
  · intro others
    obtain ⟨u, hdone, hrun, htime, hintake, hattempt⟩ := Part.twoDone_eq_tryStop h hdata
    have hothers : u.attemptInProgress = true ↔ others := by rw [hattempt, Part.stopDriven_attemptInProgress]
    refine ⟨_, exec_twoWireDone p data s, ?_⟩
    rw [hdone]
    refine ⟨fun hnone hpos => ?_, fun hbusy => ?_⟩
    · have hidle : u.attemptInProgress = false := Bool.eq_false_iff.mpr (fun hu => hnone (hothers.mp hu))
      rw [Part.tryStop_stops (hrun ▸ hstate) hidle (hintake ▸ hpos)]
      refine ⟨?_, Reports.latch_setLatch_self _ _⟩
      simp only [Part.tell_run, Part.now, hrun, htime]
    · rw [Part.tryStop_stays (hbusy.imp hothers.mpr (fun hpos => hintake ▸ hpos))]
      exact hrun

end Sys2Proof.Machine
end

section
/-! The walk over the commands as to whether they complete: each changes the part alone, or is a host access that presents nothing and
stops (logs 1 and 29); and the step that takes the front command of the queue (log 2). -/

namespace Sys2Proof.Machine

/-! ### Steps -/

/-- Settles O1, by the two shapes of the queue. -/
theorem stepTakesFrontCommand : Obligations.StepTakesFrontCommand := by
  refine ⟨fun c rest s hqueue => ?_, fun s hqueue => ?_⟩
  · rw [step, hqueue]
  · rw [step, hqueue]

/-! ### Commands that complete, and the two that stop -/

theorem memoryOffset_iff (offset : Nat) : memoryOffset offset = true ↔ offset % 4 = 0 ∧ offset < 0x8000 := by
  rw [memoryOffset, Bool.and_eq_true, beq_iff_eq, decide_eq_true_eq]

/-- A host write that presents no word of the memory stops (log 29). -/
theorem exec_hostWrite_noWord {offset : Nat} (h : memoryOffset offset = false) (value : Word) (enables : BitVec 4) (s : State) :
    exec (.hostWrite offset value enables) s = .fault (.noSuchWord offset) :=
  if_neg (Bool.eq_false_iff.mp h)

/-- An ignored write that the part does not ignore stops (log 29). -/
theorem exec_registerWriteIgnored_notIgnored {offset : Nat} {value : Word} {enables : BitVec 4}
    (h : ignoredWrite offset value enables = false) (s : State) :
    exec (.registerWriteIgnored offset value enables) s = .fault (.writeNotIgnored offset) :=
  if_neg (Bool.eq_false_iff.mp h)

/-- A command completes, changing the part alone, or is ill-formed and stops with a fault. -/
theorem exec_completes_or_stops (i : Instr) (s : State) :
    (∃ p : Part, exec i s = .next { s with part := p }) ∨ (i.wellFormed = false ∧ ∃ f : Fault, exec i s = .fault f) := by
  cases i with
  | hostWrite offset value enables =>
    cases hword : memoryOffset offset with
    | true => exact .inl ⟨_, exec_access (i := .hostWrite offset value enables) rfl hword s⟩
    | false => exact .inr ⟨hword, _, exec_hostWrite_noWord hword value enables s⟩
  | registerWriteIgnored offset value enables =>
    cases hignored : ignoredWrite offset value enables with
    | true => exact .inl ⟨_, exec_access (i := .registerWriteIgnored offset value enables) rfl hignored s⟩
    | false => exact .inr ⟨hignored, _, exec_registerWriteIgnored_notIgnored hignored s⟩
  | _ => exact .inl ⟨_, rfl⟩

theorem exec_wellFormed {i : Instr} (hwf : i.wellFormed = true) (s : State) : ∃ p : Part, exec i s = .next { s with part := p } :=
  (exec_completes_or_stops i s).resolve_right (fun ⟨hill, _⟩ => by simp [hwf] at hill)

theorem exec_fault_illFormed {i : Instr} {s : State} {f : Fault} (h : exec i s = .fault f) : i.wellFormed = false := by
  rcases exec_completes_or_stops i s with ⟨p, hnext⟩ | ⟨hill, _⟩
  · cases hnext.symm.trans h
  · exact hill

theorem exec_ne_refused (i : Instr) (s : State) (r : Refusal) : exec i s ≠ .refused r := by
  intro h
  rcases exec_completes_or_stops i s with ⟨p, hnext⟩ | ⟨_, f, hfault⟩
  · cases hnext.symm.trans h
  · cases hfault.symm.trans h

/-- Settles O2: a command that completes changes the part alone, so the queue stands, and only the two host accesses stop. -/
theorem wellFormedCommandsComplete : Obligations.WellFormedCommandsComplete := by
  refine ⟨fun c s hwf => ?_, fun offset value enables s hno => ?_, fun _ _ _ s h => exec_registerWriteIgnored_notIgnored h s,
    fun _ _ _ => exec_fault_illFormed, exec_ne_refused⟩
  · obtain ⟨p, hnext⟩ := exec_wellFormed hwf s
    exact ⟨_, hnext, rfl⟩
  · have hword : memoryOffset offset = false := Bool.eq_false_iff.mpr (fun h => hno ((memoryOffset_iff offset).mp h))
    exact exec_hostWrite_noWord hword value enables s

end Sys2Proof.Machine
end
